-- ==== Sys2Proof/Word.lean ====
section
/-!
DEFINITION. The words of the WEU Framer: bytes (R8), and the command transaction, which plays the part an
instruction word plays in a processor (R72, the ports of R30).
-/

namespace Sys2Proof

/-- A byte (R8). -/
abbrev Byte := BitVec 8

/-- One argument slot of the command input: the ports `cmd.A[k].present` and `cmd.A[k].value` (R30).
The value is an unbounded signed integer (R9, D5). -/
structure Slot where
  present : Bool
  value : Int
  deriving DecidableEq, Repr

/-- A slot that supplies no argument. -/
def Slot.absent : Slot := ⟨false, 0⟩

/-- A command transaction (R72): the fields of the command input port (R30). -/
structure Command where
  raw : Bool
  op : Byte
  a0 : Slot
  a1 : Slot
  a2 : Slot
  a3 : Slot
  a4 : Slot
  a5 : Slot
  bytes : List Byte
  deriving DecidableEq, Repr

end Sys2Proof
end

