-- ==== Sys2Proof/Syntax.lean ====
section
/-!
DEFINITION. The instructions: one constructor per row of spec/opcode_table.json, each carrying only its own arguments
(R74, R75). An argument is `none` where its slot is absent (R131). Unused inputs are not part of an instruction (R135, log 11).
-/

namespace Sys2Proof

/-- The 22 operation variants of the catalog (R74) and RAW (R73), in the table's order. -/
inductive Instr where
  | handshake
  | setBaudrate (rate : Option Int)
  | readBaudrate
  | readStorageMode
  | setStorageMode (mode : Option Int)
  | sleepMode
  | refreshAndUpdate
  | currentDisplayRotation
  | setCurrentDisplayRotation (rotation : Option Int)
  | importFontLibrary
  | importImage
  | setPallet (foreground background : Option Int)
  | getPallet
  | setEnFontSize (size : Option Int)
  | setZhFontSize (size : Option Int)
  | displayText (x y : Option Int) (text : List Byte)
  | drawCircle (x y radius : Option Int)
  | fillCircle (x y radius : Option Int)
  | drawTriangle (x1 y1 x2 y2 x3 y3 : Option Int)
  | fillTriangle (x1 y1 x2 y2 x3 y3 : Option Int)
  | clearScreen
  | displayImage (x y : Option Int) (filename : List Byte)
  | raw (op : Byte) (payload : List Byte)
  deriving DecidableEq, Repr

end Sys2Proof
end

