-- ==== Sys2Proof/Decode.lean ====
section
/-!
DEFINITION. From a command transaction to an instruction (R72, R74, R130) and back, the machine-readable opcode table, and
the host's view of the table's words. Decoding is total; an unassigned catalog opcode is rejected by the name of its error
(R79), which the accept step reports.
-/

namespace Sys2Proof

/-- What an `ArgumentError` names (R27 `FIELD`): a slot A0..A5, or the opcode. -/
inductive ArgField where
  /-- Slot `A[k]`. -/
  | slot (k : Fin 6)
  /-- An unknown opcode in catalog mode (R79). -/
  | opcode
  deriving DecidableEq, Repr

/-- The two errors the block raises (R190). Both are taken as next states (R193), never as stops of the model. -/
inductive CmdError where
  | argument (field : ArgField)
  | encoding
  deriving DecidableEq, Repr

/-- The 9-bit selector `SEL = RAW << 8 | OP` (R72). -/
def Command.sel (c : Command) : BitVec 9 := BitVec.ofBool c.raw ++ c.op

/-- The transaction with selector `sel`, no argument supplied and no bytes. -/
def Command.ofSel (sel : BitVec 9) : Command where
  raw := sel.getLsbD 8
  op := sel.extractLsb' 0 8
  a0 := .absent
  a1 := .absent
  a2 := .absent
  a3 := .absent
  a4 := .absent
  a5 := .absent
  bytes := []

/-- The argument a slot supplies: its value where `present = 1` (R131). -/
def Slot.arg (a : Slot) : Option Int := if a.present then some a.value else none

/-- A slot that supplies the given argument. -/
def Slot.ofArg : Option Int → Slot
  | none => .absent
  | some v => ⟨true, v⟩

/-- The dispatch of `marshal` on RAW and OP (R130, R73, R74, R79). -/
def decode (c : Command) : Except CmdError Instr :=
  if c.raw then .ok (.raw c.op c.bytes)
  else
    match c.op with
    | 0x00#8 => .ok .handshake
    | 0x01#8 => .ok (.setBaudrate c.a0.arg)
    | 0x02#8 => .ok .readBaudrate
    | 0x06#8 => .ok .readStorageMode
    | 0x07#8 => .ok (.setStorageMode c.a0.arg)
    | 0x08#8 => .ok .sleepMode
    | 0x0A#8 => .ok .refreshAndUpdate
    | 0x0C#8 => .ok .currentDisplayRotation
    | 0x0D#8 => .ok (.setCurrentDisplayRotation c.a0.arg)
    | 0x0E#8 => .ok .importFontLibrary
    | 0x0F#8 => .ok .importImage
    | 0x10#8 => .ok (.setPallet c.a0.arg c.a1.arg)
    | 0x11#8 => .ok .getPallet
    | 0x1E#8 => .ok (.setEnFontSize c.a0.arg)
    | 0x1F#8 => .ok (.setZhFontSize c.a0.arg)
    | 0x30#8 => .ok (.displayText c.a0.arg c.a1.arg c.bytes)
    | 0x26#8 => .ok (.drawCircle c.a0.arg c.a1.arg c.a2.arg)
    | 0x27#8 => .ok (.fillCircle c.a0.arg c.a1.arg c.a2.arg)
    | 0x28#8 => .ok (.drawTriangle c.a0.arg c.a1.arg c.a2.arg c.a3.arg c.a4.arg c.a5.arg)
    | 0x29#8 => .ok (.fillTriangle c.a0.arg c.a1.arg c.a2.arg c.a3.arg c.a4.arg c.a5.arg)
    | 0x2E#8 => .ok .clearScreen
    | 0x70#8 => .ok (.displayImage c.a0.arg c.a1.arg c.bytes)
    | _ => .error (.argument .opcode)

/-- A catalog transaction (`RAW = 0`) with the given arguments; slots left out are absent (R82). -/
def Command.catalog (op : Byte) (a0 a1 a2 a3 a4 a5 : Option Int := none) (bytes : List Byte := []) : Command where
  raw := false
  op := op
  a0 := .ofArg a0
  a1 := .ofArg a1
  a2 := .ofArg a2
  a3 := .ofArg a3
  a4 := .ofArg a4
  a5 := .ofArg a5
  bytes := bytes

/-- A transaction that presents the instruction (R74, R75, R82): unused slots absent, unused bytes empty. -/
def encode : Instr → Command
  | .handshake => .catalog 0x00
  | .setBaudrate rate => .catalog 0x01 rate
  | .readBaudrate => .catalog 0x02
  | .readStorageMode => .catalog 0x06
  | .setStorageMode mode => .catalog 0x07 mode
  | .sleepMode => .catalog 0x08
  | .refreshAndUpdate => .catalog 0x0A
  | .currentDisplayRotation => .catalog 0x0C
  | .setCurrentDisplayRotation rotation => .catalog 0x0D rotation
  | .importFontLibrary => .catalog 0x0E
  | .importImage => .catalog 0x0F
  | .setPallet foreground background => .catalog 0x10 foreground background
  | .getPallet => .catalog 0x11
  | .setEnFontSize size => .catalog 0x1E size
  | .setZhFontSize size => .catalog 0x1F size
  | .displayText x y text => .catalog 0x30 x y (bytes := text)
  | .drawCircle x y radius => .catalog 0x26 x y radius
  | .fillCircle x y radius => .catalog 0x27 x y radius
  | .drawTriangle x1 y1 x2 y2 x3 y3 => .catalog 0x28 x1 y1 x2 y2 x3 y3
  | .fillTriangle x1 y1 x2 y2 x3 y3 => .catalog 0x29 x1 y1 x2 y2 x3 y3
  | .clearScreen => .catalog 0x2E
  | .displayImage x y filename => .catalog 0x70 x y (bytes := filename)
  | .raw op payload => ⟨true, op, .absent, .absent, .absent, .absent, .absent, .absent, payload⟩

/-- One row of the opcode table: a selector belongs to it where it agrees with `pattern` under `mask`. -/
structure OpRow where
  mnemonic : String
  pattern : BitVec 9
  mask : BitVec 9
  deriving DecidableEq, Repr

/-- The row takes this selector. -/
def OpRow.takes (r : OpRow) (sel : BitVec 9) : Bool := sel &&& r.mask == r.pattern

/-- spec/opcode_table.json: mnemonic, match and mask of every row, in its order. -/
def opcodeTable : List OpRow :=
  [⟨"Handshake", 0x000, 0x1FF⟩, ⟨"SetBaudrate", 0x001, 0x1FF⟩, ⟨"ReadBaudrate", 0x002, 0x1FF⟩,
   ⟨"ReadStorageMode", 0x006, 0x1FF⟩, ⟨"SetStorageMode", 0x007, 0x1FF⟩, ⟨"SleepMode", 0x008, 0x1FF⟩,
   ⟨"RefreshAndUpdate", 0x00A, 0x1FF⟩, ⟨"CurrentDisplayRotation", 0x00C, 0x1FF⟩,
   ⟨"SetCurrentDisplayRotation", 0x00D, 0x1FF⟩, ⟨"ImportFontLibrary", 0x00E, 0x1FF⟩,
   ⟨"ImportImage", 0x00F, 0x1FF⟩, ⟨"SetPallet", 0x010, 0x1FF⟩] ++
  [⟨"GetPallet", 0x011, 0x1FF⟩, ⟨"SetEnFontSize", 0x01E, 0x1FF⟩, ⟨"SetZhFontSize", 0x01F, 0x1FF⟩,
   ⟨"DisplayText", 0x030, 0x1FF⟩, ⟨"DrawCircle", 0x026, 0x1FF⟩, ⟨"FillCircle", 0x027, 0x1FF⟩,
   ⟨"DrawTriangle", 0x028, 0x1FF⟩, ⟨"FillTriangle", 0x029, 0x1FF⟩, ⟨"ClearScreen", 0x02E, 0x1FF⟩,
   ⟨"DisplayImage", 0x070, 0x1FF⟩, ⟨"RAW", 0x100, 0x100⟩]

/-- The instruction's mnemonic in the opcode table (R74). -/
def Instr.mnemonic : Instr → String
  | .handshake => "Handshake"
  | .setBaudrate .. => "SetBaudrate"
  | .readBaudrate => "ReadBaudrate"
  | .readStorageMode => "ReadStorageMode"
  | .setStorageMode .. => "SetStorageMode"
  | .sleepMode => "SleepMode"
  | .refreshAndUpdate => "RefreshAndUpdate"
  | .currentDisplayRotation => "CurrentDisplayRotation"
  | .setCurrentDisplayRotation .. => "SetCurrentDisplayRotation"
  | .importFontLibrary => "ImportFontLibrary"
  | .importImage => "ImportImage"
  | .setPallet .. => "SetPallet"
  | .getPallet => "GetPallet"
  | .setEnFontSize .. => "SetEnFontSize"
  | .setZhFontSize .. => "SetZhFontSize"
  | .displayText .. => "DisplayText"
  | .drawCircle .. => "DrawCircle"
  | .fillCircle .. => "FillCircle"
  | .drawTriangle .. => "DrawTriangle"
  | .fillTriangle .. => "FillTriangle"
  | .clearScreen => "ClearScreen"
  | .displayImage .. => "DisplayImage"
  | .raw .. => "RAW"

/-- The transaction whose selector is the table word `w`, of which `nbits` bits are given: every other input is 0. The
port has nine selector bits, so bits above bit 8 are no part of it (log 10). -/
def tableCommand (nbits w : Nat) : Command := .ofSel (BitVec.ofNat 9 (w % 2 ^ nbits))

/-- The instruction the decoder reads from an opcode-table word (log 10). -/
def decodeTableWord (nbits w : Nat) : Option Instr := (decode (tableCommand nbits w)).toOption

end Sys2Proof
end

