-- ==== Sys2Proof/Machine/Flags.lean ====
section
/-!
DEFINITION. The outcome codes of STATUS (R27, R194): its fields, how they pack, and what each error writes (R190 to R192).
The block has no condition flags (R28).
-/

namespace Sys2Proof.Machine

/-- `KIND` 0, `OK` (R194). -/
def kindOk : BitVec 2 := 0

/-- `KIND` 1, `ARGUMENT_ERROR` (R194). -/
def kindArgument : BitVec 2 := 1

/-- `KIND` 2, `ENCODING_ERROR` (R194). -/
def kindEncoding : BitVec 2 := 2

/-- The `FIELD` code of what an `ArgumentError` names: `k + 1` for slot k, 7 for the opcode (R27, R191). -/
def fieldCode : ArgField → BitVec 3
  | .slot k => BitVec.ofNat 3 (k.val + 1)
  | .opcode => 7

/-- `STATUS = FIELD << 2 | KIND` (R27). -/
def packStatus (kind : BitVec 2) (field : BitVec 3) : BitVec 5 := field ++ kind

/-- `STATUS.KIND`, bits 1:0 (R27). -/
def kindOf (status : BitVec 5) : BitVec 2 := status.extractLsb' 0 2

/-- `STATUS.FIELD`, bits 4:2 (R27). -/
def fieldOf (status : BitVec 5) : BitVec 3 := status.extractLsb' 2 3

/-- The STATUS of a successful accept, `(OK, 0)` (R110). -/
def statusOk : BitVec 5 := packStatus kindOk 0

/-- The STATUS an error writes (R190 to R192). -/
def errorStatus : CmdError → BitVec 5
  | .argument f => packStatus kindArgument (fieldCode f)
  | .encoding => packStatus kindEncoding 0

end Sys2Proof.Machine
end

