-- ==== Sys2Proof/Machine/Constants.lean ====
section
/-!
DEFINITION. The frame constants (R5) and the parameters the spec gives a value (R7).
-/

namespace Sys2Proof.Machine

/-- `HEADER` (R5). -/
def header : Byte := 0xA5

/-- `FOOTER`, in wire order (R5). -/
def footer : List Byte := [0xCC, 0x33, 0xC3, 0x3C]

/-- `FRAME_OVERHEAD` = header 1 + length 2 + opcode 1 + footer 4 + checksum 1 (R5). -/
def frameOverhead : Nat := 9

/-- `MAX_FRAME_LEN` (R5). -/
def maxFrameLen : Nat := 65535

/-- `MAX_PAYLOAD` (R5, 90_conflicts C2). -/
def maxPayload : Nat := 65526

/-- `PBUF_CAPACITY` (R7, D21). -/
def pbufCapacity : Nat := 65526

/-- `DEFAULT_FG`: black (R7, D7). PRESUMED by the spec itself, log 6. -/
def defaultFg : Int := 0

/-- `DEFAULT_BG`: white (R7, D7). PRESUMED by the spec itself, log 6. -/
def defaultBg : Int := 3

/-- `DEFAULT_FONT_SIZE`: 32 pixels (R7). -/
def defaultFontSize : Int := 1

/-- `DEFAULT_ROTATION`: normal (R7). -/
def defaultRotation : Int := 0

/-- `DEFAULT_STORAGE`: internal (R7). -/
def defaultStorage : Int := 0

end Sys2Proof.Machine
end

