-- ==== Sys2Proof/Machine/Operands.lean ====
section
/-!
DEFINITION. Operands: legal sets and the argument fetch (R6, R131), the byte encodings of numbers (R9, R52), and the payload
formats (R76).
-/

namespace Sys2Proof.Machine

/-- A legal set of argument values (R6, R131). -/
inductive LegalSet where
  /-- `0 .. 2^w - 1`: `U16`, `U32`. -/
  | unsigned (w : Nat)
  /-- An enumerated set. -/
  | oneOf (values : List Int)
  deriving DecidableEq, Repr

/-- Membership in a legal set (R9). -/
def LegalSet.admits : LegalSet → Int → Bool
  | .unsigned w, v => decide (0 ≤ v) && decide (v < 2 ^ w)
  | .oneOf values, v => values.contains v

/-- `U16` (R131). -/
def u16 : LegalSet := .unsigned 16

/-- `U32` (R131). -/
def u32 : LegalSet := .unsigned 32

/-- Storage modes: 0 internal, 1 external (R6). -/
def storageModes : LegalSet := .oneOf [0, 1]

/-- Rotations (R6, D8). -/
def rotations : LegalSet := .oneOf [0, 1, 2]

/-- Palette colours (R6). -/
def colours : LegalSet := .oneOf [0, 1, 2, 3]

/-- Font sizes: 1, 2, 3 for 32, 48, 64 pixels (R6). -/
def fontSizes : LegalSet := .oneOf [1, 2, 3]

/-- `arg(c, k, L, d)` of R131: the argument `a` of slot `k`, in legal set `L`, with default `d`; `none` for `d` is `REQ`.
The default is not checked. -/
def arg (k : Fin 6) (legal : LegalSet) (default : Option Int) (a : Option Int) : Except CmdError Int :=
  match a, default with
  | none, none => .error (.argument (.slot k))
  | none, some d => .ok d
  | some v, _ => bif legal.admits v then .ok v else .error (.argument (.slot k))

/-- `u8(v)` (R9). -/
def u8 (v : Int) : List Byte := [BitVec.ofInt 8 v]

/-- `be16(v) = [v[15:8], v[7:0]]` (R9, R52). -/
def be16 (v : Int) : List Byte :=
  let w := BitVec.ofInt 16 v
  [w.extractLsb' 8 8, w.extractLsb' 0 8]

/-- `be32(v) = [v[31:24], v[23:16], v[15:8], v[7:0]]` (R9, R52). -/
def be32 (v : Int) : List Byte :=
  let w := BitVec.ofInt 32 v
  [w.extractLsb' 24 8, w.extractLsb' 16 8, w.extractLsb' 8 8, w.extractLsb' 0 8]

/-- `P_U8` (R76). -/
def payloadU8 (a0 : Int) : List Byte := u8 a0

/-- `P_2U8` (R76). -/
def payload2U8 (a0 a1 : Int) : List Byte := u8 a0 ++ u8 a1

/-- `P_U32` (R76). -/
def payloadU32 (a0 : Int) : List Byte := be32 a0

/-- `P_3U16` (R76). -/
def payload3U16 (a0 a1 a2 : Int) : List Byte := be16 a0 ++ be16 a1 ++ be16 a2

/-- `P_6U16` (R76). -/
def payload6U16 (a0 a1 a2 a3 a4 a5 : Int) : List Byte :=
  be16 a0 ++ be16 a1 ++ be16 a2 ++ be16 a3 ++ be16 a4 ++ be16 a5

/-- `P_XY_STR` (R76, R132): the bytes as given, then one zero byte. -/
def payloadXyStr (a0 a1 : Int) (bytes : List Byte) : List Byte := be16 a0 ++ be16 a1 ++ bytes ++ [0x00]

/-- The result of marshalling (R130): `Ok((op, p))` or `Err`. -/
abbrev Marshalled := Except CmdError (Byte × List Byte)

/-- A variant with one enumerated argument in slot A0 (`P_U8`; R144, R148, R153, R154). -/
def marshalEnum (op : Byte) (legal : LegalSet) (default : Int) (a0 : Option Int) : Marshalled := do
  let v ← arg 0 legal (some default) a0
  return (op, payloadU8 v)

/-- A palette command under the given defaults (`P_2U8`; R151, R7). -/
def marshalPalette (op : Byte) (dfg dbg : Int) (a0 a1 : Option Int) : Marshalled := do
  let fg ← arg 0 colours (some dfg) a0
  let bg ← arg 1 colours (some dbg) a1
  return (op, payload2U8 fg bg)

/-- A variant with one required 32-bit argument (`P_U32`; R141). -/
def marshalU32 (op : Byte) (a0 : Option Int) : Marshalled := do
  let v ← arg 0 u32 none a0
  return (op, payloadU32 v)

/-- A variant with three required 16-bit arguments (`P_3U16`; R156, R157). -/
def marshal3U16 (op : Byte) (a0 a1 a2 : Option Int) : Marshalled := do
  let v0 ← arg 0 u16 none a0
  let v1 ← arg 1 u16 none a1
  let v2 ← arg 2 u16 none a2
  return (op, payload3U16 v0 v1 v2)

/-- A variant with six required 16-bit arguments (`P_6U16`; R158, R159). -/
def marshal6U16 (op : Byte) (a0 a1 a2 a3 a4 a5 : Option Int) : Marshalled := do
  let v0 ← arg 0 u16 none a0
  let v1 ← arg 1 u16 none a1
  let v2 ← arg 2 u16 none a2
  let v3 ← arg 3 u16 none a3
  let v4 ← arg 4 u16 none a4
  let v5 ← arg 5 u16 none a5
  return (op, payload6U16 v0 v1 v2 v3 v4 v5)

/-- A variant with a position and a byte string (`P_XY_STR`; R155, R161, R132). -/
def marshalXyStr (op : Byte) (a0 a1 : Option Int) (bytes : List Byte) : Marshalled := do
  let x ← arg 0 u16 none a0
  let y ← arg 1 u16 none a1
  return (op, payloadXyStr x y bytes)

end Sys2Proof.Machine
end

