-- ==== Sys2Proof/Config.lean ====
section
/-!
DEFINITION. The one value the spec leaves free: the contents of the payload buffer after a reset (R24, R37, R210, I1).
The frame constants and the parameters that the spec gives a value (R5, R7) are in Machine/Constants.lean.
-/

namespace Sys2Proof

/-- What entry `i` of PBUF holds where nothing has been written since the `gen`-th reset: unspecified (R37, R210, I1).
A free value (log 4): it has no body, so a statement that mentions it holds for every value. -/
opaque Config.pbufFree (gen i : Nat) : Byte

end Sys2Proof
end

