-- ==== Sys2Proof/Machine/State.lean ====
section
/-!
DEFINITION. The state: every register of the framer (R21 to R27), and the environment's part, which decides the levels of
the input ports (R20, R29 to R31, R34; log 1). Plain data throughout.
-/

namespace Sys2Proof.Machine

/-- `PHASE`, 3 bits (R21): the section of the frame being emitted. All eight codes are legal. -/
inductive Phase where
  | idle
  | header
  | lenHi
  | lenLo
  | opcode
  | payload
  | footer
  | checksum
  deriving DecidableEq, Repr

/-- One transfer on the serial byte output (R31): `out_data` and `out_last`. -/
structure Transfer where
  data : Byte
  last : Bool
  deriving DecidableEq, Repr

/-- The environment: what the producer, the sink and the reset line will do, and what the sink has received (log 1).
The block never reads more of it than the port levels of the coming step. -/
structure Env where
  /-- What the producer presents, oldest first: `some c` offers `c` until it is taken (R30, R215), `none` offers nothing
  for one step; where the list ends nothing more is offered. -/
  producer : List (Option Command)
  /-- `out_ready` in the coming steps (R31). -/
  sink : List Bool
  /-- `out_ready` once `sink` is used up. -/
  sinkRest : Bool
  /-- `rst` in the coming steps (R34); released where the list ends. -/
  rstLevels : List Bool
  /-- Every transfer the sink has taken, oldest first (R58; log 12). -/
  received : List Transfer
  deriving DecidableEq, Repr

/-- What the environment lets the framer do in a step (R20): one of the framer's steps, or none of them. -/
inductive Action where
  /-- The reset step (R210). -/
  | reset
  /-- The accept step, taking this transaction (R110). -/
  | accept (c : Command)
  /-- The emit step (R111). -/
  | emit
  /-- No step of the framer is enabled (R217, I7; log 9). -/
  | stall
  deriving DecidableEq, Repr

structure State where
  /-- `PHASE` (R21). -/
  phase : Phase
  /-- `OP` (R22). -/
  op : Byte
  /-- `LEN` (R23). -/
  len : BitVec 16
  /-- `PLEN` (R24). -/
  plen : BitVec 16
  /-- `PBUF` (R24, R51): the entries written since the last reset, by strictly rising index (log 4). -/
  pbuf : List Host.Cell
  /-- Which unspecified contents the other entries of PBUF have (log 4): the model's own counter. -/
  pbufGen : Nat
  /-- `IDX` (R25). -/
  idx : BitVec 16
  /-- `CHK` (R26). -/
  chk : Byte
  /-- `STATUS` (R27): `FIELD` in bits 4:2, `KIND` in bits 1:0. -/
  status : BitVec 5
  /-- The environment's part (R20; log 1). -/
  env : Env
  deriving DecidableEq, Repr

/-- Why the machine stops. -/
inductive Fault where
  /-- Raised by an emit step whose IDX lies outside the section PHASE names: an index of 65526 or more in PAYLOAD names
  no entry of PBUF (R24), and one of 4 or more in FOOTER no footer byte (R21). No reachable state does this (R35), and the
  spec's emit step cannot fail (R111). Safe (log 7). -/
  | sectionIndex (phase : Phase)
  deriving DecidableEq, Repr

/-- Why a step is refused. -/
inductive Refusal where
  /-- Raised by an arm of `exec` that has no meaning yet; there is none left. Safe. -/
  | notModelled (mnemonic : String)
  deriving DecidableEq, Repr

/-- The state after reset (R37). The environment offers nothing and its sink is ready (log 2). -/
def State.reset : State where
  phase := .idle
  op := 0x00
  len := 0x0000
  plen := 0
  pbuf := []
  pbufGen := 0
  idx := 0
  chk := 0x00
  status := 0
  env := { producer := [], sink := [], sinkRest := true, rstLevels := [], received := [] }

end Sys2Proof.Machine
end

