-- ==== Sys2Proof/Machine/Ops.lean ====
section
/-!
DEFINITION. The shared operations: the payload buffer (R24, R51), the frame function (R100 to R108), the ports (R30 to R34),
taking an error (R193), and the framer's three steps accept, emit and reset (R110, R111, R210).
-/

namespace Sys2Proof.Machine

/-- The 3-bit encoding of PHASE (R21). -/
def Phase.code : Phase → BitVec 3
  | .idle => 0
  | .header => 1
  | .lenHi => 2
  | .lenLo => 3
  | .opcode => 4
  | .payload => 5
  | .footer => 6
  | .checksum => 7

/-! ### The payload buffer -/

/-- The listed entry at index `i`, if any. -/
def Memory.find (m : List Host.Cell) (i : Nat) : Option Byte :=
  match m with
  | [] => none
  | (a, b) :: rest => if a = i then some b else Memory.find rest i

/-- Cells for consecutive indices from `i` on. -/
def Memory.cellsFrom (i : Nat) : List Byte → List Host.Cell
  | [] => []
  | b :: rest => (i, b) :: Memory.cellsFrom (i + 1) rest

/-- `PBUF[i] <- p[i]` for `0 <= i < len(p)`; every other entry stays (R51, R110, R38). -/
def Memory.store (p : List Byte) (m : List Host.Cell) : List Host.Cell :=
  Memory.cellsFrom 0 p ++ m.filter (fun cell => decide (p.length ≤ cell.1))

/-- The indices rise strictly from `lo` on and stay below the capacity. -/
def Memory.wfFrom (lo : Nat) : List Host.Cell → Bool
  | [] => true
  | (a, _) :: rest => decide (lo ≤ a) && decide (a < pbufCapacity) && Memory.wfFrom (a + 1) rest

/-- The canonical form of PBUF: strictly rising indices, all of them entries of the buffer. What an unlisted entry reads as
is a free value, so no listed entry equals it by form (log 4). -/
def Memory.wf (m : List Host.Cell) : Bool := Memory.wfFrom 0 m

/-- What entry `i` of PBUF holds: what was written there since the last reset, else the unspecified contents (R24, R37). -/
def State.pbufByte (s : State) (i : Nat) : Byte := (Memory.find s.pbuf i).getD (Config.pbufFree s.pbufGen i)

/-- `PBUF[i]`; there is none at or above the capacity (R24). -/
def State.pbufRead (s : State) (i : Nat) : Option Byte :=
  if i < pbufCapacity then some (s.pbufByte i) else none

/-! ### The frame function -/

/-- `xor_fold(s)` (R8). -/
def xorFold (bytes : List Byte) : Byte := bytes.foldl (· ^^^ ·) 0x00

/-- The frame up to its checksum (R100, R101). -/
def frameBody (op : Byte) (p : List Byte) : List Byte :=
  [header] ++ be16 (p.length + frameOverhead : Nat) ++ [op] ++ p ++ footer

/-- The frame of an opcode and a payload that fits (R100, R103). -/
def frameBytes (op : Byte) (p : List Byte) : List Byte := frameBody op p ++ [xorFold (frameBody op p)]

/-- `encode_frame(op, p)` (R104): the length is checked exactly, before any byte is built (R102, R108). -/
def encodeFrame (op : Byte) (p : List Byte) : Except CmdError (List Byte) :=
  if maxPayload < p.length then .error .encoding else .ok (frameBytes op p)

/-! ### Input levels -/

/-- `rst` in the coming step (R34). -/
def State.rst (s : State) : Bool := s.env.rstLevels.headD false

/-- `cmd` where `cmd_valid = 1` in the coming step (R30). -/
def State.offered (s : State) : Option Command := s.env.producer.headD none

/-- `cmd_valid` (R30). -/
def State.cmdValid (s : State) : Bool := s.offered.isSome

/-- `out_ready` in the coming step (R31). -/
def State.outReady (s : State) : Bool := s.env.sink.headD s.env.sinkRest

/-! ### Output ports -/

/-- `cmd_ready` (R30). -/
def State.cmdReady (s : State) : Bool := decide (s.phase = .idle)

/-- `out_valid` (R31). -/
def State.outValid (s : State) : Bool := decide (s.phase ≠ .idle)

/-- `out_data` (R33): none in IDLE. An index outside its section names no byte (log 7). -/
def State.outData (s : State) : Option Byte :=
  match s.phase with
  | .idle => none
  | .header => some header
  | .lenHi => some (s.len.extractLsb' 8 8)
  | .lenLo => some (s.len.extractLsb' 0 8)
  | .opcode => some s.op
  | .payload => s.pbufRead s.idx.toNat
  | .footer => footer[s.idx.toNat]?
  | .checksum => some s.chk

/-- `out_last` (R31). -/
def State.outLast (s : State) : Bool := decide (s.phase = .checksum)

/-- `busy` (R32). -/
def State.busy (s : State) : Bool := decide (s.phase ≠ .idle)

/-- `status_kind` (R32). -/
def State.statusKind (s : State) : BitVec 2 := kindOf s.status

/-- `status_field` (R32). -/
def State.statusField (s : State) : BitVec 3 := fieldOf s.status

/-! ### The framer's steps -/

/-- Taking an error (R193): STATUS is written and nothing else changes. There is no return from an error (R197): the
block is ready for the next command at once. -/
def State.takeError (s : State) (e : CmdError) : State := { s with status := errorStatus e }

/-- What a successful accept writes (R110, R38). -/
def State.latch (s : State) (op : Byte) (p : List Byte) : State :=
  { s with
    phase := .header
    op := op
    len := BitVec.ofNat 16 (p.length + frameOverhead)
    plen := BitVec.ofNat 16 p.length
    pbuf := Memory.store p s.pbuf
    idx := 0
    chk := 0x00
    status := statusOk }

/-- The accept step on a marshalled command (R110). A command handed to a busy framer is not taken (R215; log 8). -/
def State.accept (s : State) (r : Marshalled) : State :=
  if s.cmdReady then
    match r with
    | .error e => s.takeError e
    | .ok (op, p) =>
      match encodeFrame op p with
      | .error e => s.takeError e
      | .ok _ => s.latch op p
  else s

/-- The sequencer's part of an emit step: the new PHASE and IDX (R111, R112). -/
def State.sequence (s : State) : State :=
  match s.phase with
  | .idle => s
  | .header => { s with phase := .lenHi }
  | .lenHi => { s with phase := .lenLo }
  | .lenLo => { s with phase := .opcode }
  | .opcode => { s with idx := 0, phase := if s.plen = 0 then .footer else .payload }
  | .payload =>
    if s.idx.toNat + 1 = s.plen.toNat then { s with idx := 0, phase := .footer } else { s with idx := s.idx + 1 }
  | .footer => if s.idx = 3 then { s with idx := 0, phase := .checksum } else { s with idx := s.idx + 1 }
  | .checksum => { s with phase := .idle }

/-- The checksum's part of an emit step: every byte but the checksum byte itself is folded in (R111, R26). -/
def State.foldChk (s : State) (b : Byte) : State :=
  if s.phase = .checksum then s else { s with chk := s.chk ^^^ b }

/-- The sink takes the offered byte (R31). -/
def State.transfer (s : State) (b : Byte) : State :=
  { s with env := { s.env with received := s.env.received ++ [⟨b, s.outLast⟩] } }

/-- The state after an emit step has moved byte `b` (R111): all three parts read the registers as they were before (R11). -/
def State.afterEmit (s : State) (b : Byte) : State := ((s.transfer b).foldChk b).sequence

/-- The emit step (R111). In IDLE no byte is offered and nothing happens (R31). -/
def State.emit (s : State) : Host.Outcome State Fault Refusal :=
  match s.outData with
  | some b => .next (s.afterEmit b)
  | none => if s.phase = .idle then .next s else .fault (.sectionIndex s.phase)

/-- The reset step (R210): every register as R37 says, PBUF unspecified anew (log 4), no byte emitted. -/
def State.resetStep (s : State) : State :=
  { s with
    phase := .idle
    op := 0x00
    len := 0x0000
    plen := 0
    pbuf := []
    pbufGen := s.pbufGen + 1
    idx := 0
    chk := 0x00
    status := statusOk }

/-! ### The environment between steps -/

/-- Which step comes next (R20): reset first (R210), else accept in IDLE (R30), else emit where the sink is ready (R31). -/
def State.action (s : State) : Action :=
  if s.rst then .reset
  else if s.cmdReady then
    match s.offered with
    | some c => .accept c
    | none => .stall
  else if s.outReady then .emit
  else .stall

/-- What the producer presents next: a taken transaction is gone (R193, R216), one that is not taken is held (R215), and
a step without an offer has passed. -/
def advanceProducer (taken : Bool) : List (Option Command) → List (Option Command)
  | [] => []
  | none :: rest => rest
  | some c :: rest => if taken then rest else some c :: rest

/-- The environment moves on to its next levels (log 1). -/
def State.tick (s : State) (taken : Bool) : State :=
  { s with
    env := { s.env with
      producer := advanceProducer taken s.env.producer
      sink := s.env.sink.tail
      rstLevels := s.env.rstLevels.tail } }

/-- Apply `f` to the next state; a fault or a refusal stays. -/
def thenNext (f : State → State) : Host.Outcome State Fault Refusal → Host.Outcome State Fault Refusal
  | .next s => .next (f s)
  | .fault r => .fault r
  | .refused r => .refused r

/-- The state whose very next step takes transaction `c` (log 3): the framer ready, no reset asserted, `c` offered. -/
def State.presenting (s : State) (c : Command) : State :=
  { s with
    phase := .idle
    idx := 0
    env := { s.env with
      producer := some c :: s.env.producer
      rstLevels := if s.rst then false :: s.env.rstLevels.tail else s.env.rstLevels } }

end Sys2Proof.Machine
end

