-- ==== Sys2Proof/Machine/Baudrate.lean ====
section
/-!
DEFINITION. SetBaudrate (`P_U32`): every 32-bit rate is framed (D27).
-/

namespace Sys2Proof.Machine

/-- `SetBaudrate` (R141): the opcode and payload. -/
def marshalSetBaudrate (rate : Option Int) : Marshalled :=
  marshalU32 0x01 rate

/-- The accept step on `SetBaudrate` (R141, R110). -/
def execSetBaudrate (rate : Option Int) (s : State) : Host.Outcome State Fault Refusal :=
  .next (s.accept (marshalSetBaudrate rate))

end Sys2Proof.Machine
end

