-- ==== Sys2Proof/Machine/NoArgument.lean ====
section
/-!
DEFINITION. The ten variants without arguments (`P_NONE`): the payload is empty and nothing can be wrong with them.
-/

namespace Sys2Proof.Machine

/-- `Handshake` (R140): the opcode and payload. -/
def marshalHandshake : Marshalled :=
  .ok (0x00, [])

/-- The accept step on `Handshake` (R140, R110). -/
def execHandshake (s : State) : Host.Outcome State Fault Refusal :=
  .next (s.accept marshalHandshake)

/-- `ReadBaudrate` (R142): the opcode and payload. -/
def marshalReadBaudrate : Marshalled :=
  .ok (0x02, [])

/-- The accept step on `ReadBaudrate` (R142, R110). -/
def execReadBaudrate (s : State) : Host.Outcome State Fault Refusal :=
  .next (s.accept marshalReadBaudrate)

/-- `ReadStorageMode` (R143): the opcode and payload. -/
def marshalReadStorageMode : Marshalled :=
  .ok (0x06, [])

/-- The accept step on `ReadStorageMode` (R143, R110). -/
def execReadStorageMode (s : State) : Host.Outcome State Fault Refusal :=
  .next (s.accept marshalReadStorageMode)

/-- `SleepMode` (R145): the opcode and payload. -/
def marshalSleepMode : Marshalled :=
  .ok (0x08, [])

/-- The accept step on `SleepMode` (R145, R110). -/
def execSleepMode (s : State) : Host.Outcome State Fault Refusal :=
  .next (s.accept marshalSleepMode)

/-- `RefreshAndUpdate` (R146): the opcode and payload. -/
def marshalRefreshAndUpdate : Marshalled :=
  .ok (0x0A, [])

/-- The accept step on `RefreshAndUpdate` (R146, R110). -/
def execRefreshAndUpdate (s : State) : Host.Outcome State Fault Refusal :=
  .next (s.accept marshalRefreshAndUpdate)

/-- `CurrentDisplayRotation` (R147): the opcode and payload. -/
def marshalCurrentDisplayRotation : Marshalled :=
  .ok (0x0C, [])

/-- The accept step on `CurrentDisplayRotation` (R147, R110). -/
def execCurrentDisplayRotation (s : State) : Host.Outcome State Fault Refusal :=
  .next (s.accept marshalCurrentDisplayRotation)

/-- `ImportFontLibrary` (R149): the opcode and payload. -/
def marshalImportFontLibrary : Marshalled :=
  .ok (0x0E, [])

/-- The accept step on `ImportFontLibrary` (R149, R110). -/
def execImportFontLibrary (s : State) : Host.Outcome State Fault Refusal :=
  .next (s.accept marshalImportFontLibrary)

/-- `ImportImage` (R150): the opcode and payload. -/
def marshalImportImage : Marshalled :=
  .ok (0x0F, [])

/-- The accept step on `ImportImage` (R150, R110). -/
def execImportImage (s : State) : Host.Outcome State Fault Refusal :=
  .next (s.accept marshalImportImage)

/-- `GetPallet` (R152): the opcode and payload. -/
def marshalGetPallet : Marshalled :=
  .ok (0x11, [])

/-- The accept step on `GetPallet` (R152, R110). -/
def execGetPallet (s : State) : Host.Outcome State Fault Refusal :=
  .next (s.accept marshalGetPallet)

/-- `ClearScreen` (R160): the opcode and payload. -/
def marshalClearScreen : Marshalled :=
  .ok (0x2E, [])

/-- The accept step on `ClearScreen` (R160, R110). -/
def execClearScreen (s : State) : Host.Outcome State Fault Refusal :=
  .next (s.accept marshalClearScreen)

end Sys2Proof.Machine
end

