-- ==== Sys2Proof/Machine/Palette.lean ====
section
/-!
DEFINITION. SetPallet (`P_2U8`): the two defaults are independent (D7; log 6).
-/

namespace Sys2Proof.Machine

/-- `SetPallet` (R151): the opcode and payload. -/
def marshalSetPallet (foreground background : Option Int) : Marshalled :=
  marshalPalette 0x10 defaultFg defaultBg foreground background

/-- The accept step on `SetPallet` (R151, R110). -/
def execSetPallet (foreground background : Option Int) (s : State) : Host.Outcome State Fault Refusal :=
  .next (s.accept (marshalSetPallet foreground background))

end Sys2Proof.Machine
end

