-- ==== Sys2Proof/Machine/Raw.lean ====
section
/-!
DEFINITION. RAW mode (`P_RAW`): any opcode, the payload verbatim, no argument check (R73, R106).
-/

namespace Sys2Proof.Machine

/-- `RAW` (R162): the opcode and payload. -/
def marshalRaw (op : Byte) (payload : List Byte) : Marshalled :=
  .ok (op, payload)

/-- The accept step on `RAW` (R162, R110). -/
def execRaw (op : Byte) (payload : List Byte) (s : State) : Host.Outcome State Fault Refusal :=
  .next (s.accept (marshalRaw op payload))

end Sys2Proof.Machine
end

