-- ==== Sys2Proof/Machine/Setting.lean ====
section
/-!
DEFINITION. The four variants with one enumerated argument (`P_U8`): the byte is the value itself (R77).
-/

namespace Sys2Proof.Machine

/-- `SetStorageMode` (R144): the opcode and payload. -/
def marshalSetStorageMode (mode : Option Int) : Marshalled :=
  marshalEnum 0x07 storageModes defaultStorage mode

/-- The accept step on `SetStorageMode` (R144, R110). -/
def execSetStorageMode (mode : Option Int) (s : State) : Host.Outcome State Fault Refusal :=
  .next (s.accept (marshalSetStorageMode mode))

/-- `SetCurrentDisplayRotation` (R148): the opcode and payload. -/
def marshalSetCurrentDisplayRotation (rotation : Option Int) : Marshalled :=
  marshalEnum 0x0D rotations defaultRotation rotation

/-- The accept step on `SetCurrentDisplayRotation` (R148, R110). -/
def execSetCurrentDisplayRotation (rotation : Option Int) (s : State) : Host.Outcome State Fault Refusal :=
  .next (s.accept (marshalSetCurrentDisplayRotation rotation))

/-- `SetEnFontSize` (R153): the opcode and payload. -/
def marshalSetEnFontSize (size : Option Int) : Marshalled :=
  marshalEnum 0x1E fontSizes defaultFontSize size

/-- The accept step on `SetEnFontSize` (R153, R110). -/
def execSetEnFontSize (size : Option Int) (s : State) : Host.Outcome State Fault Refusal :=
  .next (s.accept (marshalSetEnFontSize size))

/-- `SetZhFontSize` (R154): the opcode and payload. -/
def marshalSetZhFontSize (size : Option Int) : Marshalled :=
  marshalEnum 0x1F fontSizes defaultFontSize size

/-- The accept step on `SetZhFontSize` (R154, R110). -/
def execSetZhFontSize (size : Option Int) (s : State) : Host.Outcome State Fault Refusal :=
  .next (s.accept (marshalSetZhFontSize size))

end Sys2Proof.Machine
end

