-- ==== Sys2Proof/Machine/Shape.lean ====
section
/-!
DEFINITION. Circles (`P_3U16`) and triangles (`P_6U16`): no check against the screen (R133).
-/

namespace Sys2Proof.Machine

/-- `DrawCircle` (R156): the opcode and payload. -/
def marshalDrawCircle (x y radius : Option Int) : Marshalled :=
  marshal3U16 0x26 x y radius

/-- The accept step on `DrawCircle` (R156, R110). -/
def execDrawCircle (x y radius : Option Int) (s : State) : Host.Outcome State Fault Refusal :=
  .next (s.accept (marshalDrawCircle x y radius))

/-- `FillCircle` (R157): the opcode and payload. -/
def marshalFillCircle (x y radius : Option Int) : Marshalled :=
  marshal3U16 0x27 x y radius

/-- The accept step on `FillCircle` (R157, R110). -/
def execFillCircle (x y radius : Option Int) (s : State) : Host.Outcome State Fault Refusal :=
  .next (s.accept (marshalFillCircle x y radius))

/-- `DrawTriangle` (R158): the opcode and payload. -/
def marshalDrawTriangle (x1 y1 x2 y2 x3 y3 : Option Int) : Marshalled :=
  marshal6U16 0x28 x1 y1 x2 y2 x3 y3

/-- The accept step on `DrawTriangle` (R158, R110). -/
def execDrawTriangle (x1 y1 x2 y2 x3 y3 : Option Int) (s : State) : Host.Outcome State Fault Refusal :=
  .next (s.accept (marshalDrawTriangle x1 y1 x2 y2 x3 y3))

/-- `FillTriangle` (R159): the opcode and payload. -/
def marshalFillTriangle (x1 y1 x2 y2 x3 y3 : Option Int) : Marshalled :=
  marshal6U16 0x29 x1 y1 x2 y2 x3 y3

/-- The accept step on `FillTriangle` (R159, R110). -/
def execFillTriangle (x1 y1 x2 y2 x3 y3 : Option Int) (s : State) : Host.Outcome State Fault Refusal :=
  .next (s.accept (marshalFillTriangle x1 y1 x2 y2 x3 y3))

end Sys2Proof.Machine
end

