-- ==== Sys2Proof/Machine/Text.lean ====
section
/-!
DEFINITION. DisplayText and DisplayImage (`P_XY_STR`): the bytes are copied unchanged and ended with one zero byte (R132).
-/

namespace Sys2Proof.Machine

/-- `DisplayText` (R155): the opcode and payload. -/
def marshalDisplayText (x y : Option Int) (text : List Byte) : Marshalled :=
  marshalXyStr 0x30 x y text

/-- The accept step on `DisplayText` (R155, R110). -/
def execDisplayText (x y : Option Int) (text : List Byte) (s : State) : Host.Outcome State Fault Refusal :=
  .next (s.accept (marshalDisplayText x y text))

/-- `DisplayImage` (R161): the opcode and payload. -/
def marshalDisplayImage (x y : Option Int) (filename : List Byte) : Marshalled :=
  marshalXyStr 0x70 x y filename

/-- The accept step on `DisplayImage` (R161, R110). -/
def execDisplayImage (x y : Option Int) (filename : List Byte) (s : State) : Host.Outcome State Fault Refusal :=
  .next (s.accept (marshalDisplayImage x y filename))

end Sys2Proof.Machine
end

