-- ==== Sys2Proof/Machine/Dispatch.lean ====
section
/-!
DEFINITION. The accept step by instruction: each arm calls its instruction's meaning.
-/

namespace Sys2Proof.Machine

def exec (i : Instr) (s : State) : Host.Outcome State Fault Refusal :=
  match i with
  | .handshake => Sys2Proof.Machine.execHandshake s
  | .setBaudrate rate => Sys2Proof.Machine.execSetBaudrate rate s
  | .readBaudrate => Sys2Proof.Machine.execReadBaudrate s
  | .readStorageMode => Sys2Proof.Machine.execReadStorageMode s
  | .setStorageMode mode => Sys2Proof.Machine.execSetStorageMode mode s
  | .sleepMode => Sys2Proof.Machine.execSleepMode s
  | .refreshAndUpdate => Sys2Proof.Machine.execRefreshAndUpdate s
  | .currentDisplayRotation => Sys2Proof.Machine.execCurrentDisplayRotation s
  | .setCurrentDisplayRotation rotation => Sys2Proof.Machine.execSetCurrentDisplayRotation rotation s
  | .importFontLibrary => Sys2Proof.Machine.execImportFontLibrary s
  | .importImage => Sys2Proof.Machine.execImportImage s
  | .setPallet foreground background => Sys2Proof.Machine.execSetPallet foreground background s
  | .getPallet => Sys2Proof.Machine.execGetPallet s
  | .setEnFontSize size => Sys2Proof.Machine.execSetEnFontSize size s
  | .setZhFontSize size => Sys2Proof.Machine.execSetZhFontSize size s
  | .displayText x y text => Sys2Proof.Machine.execDisplayText x y text s
  | .drawCircle x y radius => Sys2Proof.Machine.execDrawCircle x y radius s
  | .fillCircle x y radius => Sys2Proof.Machine.execFillCircle x y radius s
  | .drawTriangle x1 y1 x2 y2 x3 y3 => Sys2Proof.Machine.execDrawTriangle x1 y1 x2 y2 x3 y3 s
  | .fillTriangle x1 y1 x2 y2 x3 y3 => Sys2Proof.Machine.execFillTriangle x1 y1 x2 y2 x3 y3 s
  | .clearScreen => Sys2Proof.Machine.execClearScreen s
  | .displayImage x y filename => Sys2Proof.Machine.execDisplayImage x y filename s
  | .raw op payload => Sys2Proof.Machine.execRaw op payload s

end Sys2Proof.Machine
end

