-- ==== Sys2Proof/Machine/Step.lean ====
section
/-!
DEFINITION. One step of the machine: the step of the framer that the input levels enable (R20), and the environment moving
on to its next levels; and the host's way to have an instruction taken next (log 3).
-/

namespace Sys2Proof.Machine

/-- One step: reset (R210), accept (R110), emit (R111), or none of them (R217). -/
def step (s : State) : Host.Outcome State Fault Refusal :=
  match s.action with
  | .reset => .next (s.resetStep.tick false)
  | .accept c =>
    match decode c with
    | .ok i => thenNext (fun t => t.tick true) (exec i s)
    | .error e => .next ((s.takeError e).tick true)
  | .emit => thenNext (fun t => t.tick false) s.emit
  | .stall => .next (s.tick false)

/-- The state whose very next step takes the transaction of the opcode-table word `w` (log 3, log 10). -/
def State.withFetchWord (s : State) (nbits w : Nat) : State := s.presenting (tableCommand nbits w)

end Sys2Proof.Machine
end

