-- ==== Sys2Proof/Machine/Describe.lean ====
section
/-!
DEFINITION. The host-side functions on the block's output: the `describe` rendering and its comparison (R90, R91), and how a
reader of the stream finds the frames in it (R71). No step calls them.
-/

namespace Sys2Proof.Machine

/-- The sixteen digits of the rendering (R90). -/
def hexDigits : List Char := ['0', '1', '2', '3', '4', '5', '6', '7', '8', '9', 'A', 'B', 'C', 'D', 'E', 'F']

/-- `DIGIT(d)` (R90). -/
def hexDigit (d : BitVec 4) : Char := hexDigits.getD d.toNat '0'

/-- `HEX2(b)` (R90). -/
def hex2 (b : Byte) : List Char := [hexDigit (b.extractLsb' 4 4), hexDigit (b.extractLsb' 0 4)]

/-- The characters of `describe(s)`: hex pairs with single spaces between them (R90). -/
def describeChars : List Byte → List Char
  | [] => []
  | [b] => hex2 b
  | b :: rest => hex2 b ++ ' ' :: describeChars rest

/-- `describe(frame)` (R90). -/
def describe (s : List Byte) : String := String.ofList (describeChars s)

/-- Comparison of renderings without regard to letter case (R91). -/
def sameRendering (a b : String) : Bool := a.toList.map Char.toUpper == b.toList.map Char.toUpper

/-- The first frame of a stream that starts at a HEADER, and the rest: the big-endian LENGTH at offsets 1 and 2 is the whole
frame's length (R71). Nothing where the stream ends before the frame does, or where LENGTH is below the overhead (log 16). -/
def nextFrame (stream : List Byte) : Option (List Byte × List Byte) :=
  match stream with
  | _ :: hi :: lo :: _ =>
    let n := hi.toNat * 256 + lo.toNat
    if frameOverhead ≤ n ∧ n ≤ stream.length then some (stream.take n, stream.drop n) else none
  | _ => none

/-- The frames at the front of a stream, at most `fuel` of them (R71). -/
def readFrames : Nat → List Byte → List (List Byte)
  | 0, _ => []
  | fuel + 1, stream =>
    match nextFrame stream with
    | some (frame, rest) => frame :: readFrames fuel rest
    | none => []

end Sys2Proof.Machine
end

