-- ==== Sys2Proof/Machine/CallText.lean ====
section
/-!
DEFINITION. The textual form of a command (R82): `Name(arg, name=arg, ...)` and `RAW(op, <bytes>)`, read into the
transaction it stands for. What R82 leaves open of the form is in log 15.
-/

namespace Sys2Proof.Machine

/-- The value of a written argument: a number, or a byte sequence. -/
inductive CallValue where
  | num (v : Int)
  | bytes (bs : List Byte)
  deriving DecidableEq, Repr

/-- A written argument, by position or by name. -/
structure CallArg where
  name : Option String
  value : CallValue
  deriving DecidableEq, Repr

/-- A written command. -/
structure Call where
  name : String
  args : List CallArg
  deriving DecidableEq, Repr

/-- What a variant's arguments are called: the slots from A0 on, and BYTES where it is used (R75). -/
structure CallForm where
  op : Byte
  slots : List String
  bytesName : Option String
  deriving DecidableEq, Repr

/-- The names of R74 and R75. -/
def callForms : List (String × CallForm) :=
  [("Handshake", ⟨0x00, [], none⟩), ("SetBaudrate", ⟨0x01, ["rate"], none⟩), ("ReadBaudrate", ⟨0x02, [], none⟩),
   ("ReadStorageMode", ⟨0x06, [], none⟩), ("SetStorageMode", ⟨0x07, ["mode"], none⟩), ("SleepMode", ⟨0x08, [], none⟩),
   ("RefreshAndUpdate", ⟨0x0A, [], none⟩), ("CurrentDisplayRotation", ⟨0x0C, [], none⟩),
   ("SetCurrentDisplayRotation", ⟨0x0D, ["rotation"], none⟩), ("ImportFontLibrary", ⟨0x0E, [], none⟩),
   ("ImportImage", ⟨0x0F, [], none⟩), ("SetPallet", ⟨0x10, ["foreground", "background"], none⟩)] ++
  [("GetPallet", ⟨0x11, [], none⟩), ("SetEnFontSize", ⟨0x1E, ["size"], none⟩), ("SetZhFontSize", ⟨0x1F, ["size"], none⟩),
   ("DisplayText", ⟨0x30, ["x", "y"], some "text"⟩), ("DrawCircle", ⟨0x26, ["x", "y", "radius"], none⟩),
   ("FillCircle", ⟨0x27, ["x", "y", "radius"], none⟩),
   ("DrawTriangle", ⟨0x28, ["x1", "y1", "x2", "y2", "x3", "y3"], none⟩),
   ("FillTriangle", ⟨0x29, ["x1", "y1", "x2", "y2", "x3", "y3"], none⟩),
   ("ClearScreen", ⟨0x2E, [], none⟩), ("DisplayImage", ⟨0x70, ["x", "y"], some "filename"⟩)]

/-- The first entry whose key is `name`. -/
def findForm (name : String) : List (String × CallForm) → Option CallForm
  | [] => none
  | (n, f) :: rest => if n = name then some f else findForm name rest

/-- What has been read of a call: the slots and bytes supplied, and how many positions are used up. -/
structure CallFill where
  slots : List (Option Int)
  bytes : Option (List Byte)
  next : Nat
  deriving DecidableEq, Repr

/-- Supply slot `k`, which must exist and not be supplied yet. -/
def CallFill.setSlot (f : CallFill) (k : Nat) (v : Int) : Option CallFill :=
  match f.slots[k]? with
  | some none => some { f with slots := f.slots.set k (some v) }
  | _ => none

/-- Take in one written argument: numbers by position fill the slots in order, names are those of R75 (R82). DESIGN CHOICE (log 15):
R82 orders the slots only, so a byte sequence may stand at any place among the arguments, and a named argument too; neither
uses up a position; and an argument that is supplied twice is none of the form's. -/
def CallFill.add (form : CallForm) (f : CallFill) (a : CallArg) : Option CallFill :=
  match a.name, a.value with
  | none, .num v => (f.setSlot f.next v).map fun g => { g with next := f.next + 1 }
  | some n, .num v => f.setSlot (form.slots.idxOf n) v
  | name, .bytes bs =>
    if f.bytes = none ∧ form.bytesName ≠ none ∧ (name = none ∨ name = form.bytesName) then
      some { f with bytes := some bs }
    else none

/-- The transaction of a catalog call (R82): slots and bytes left out are absent and empty. -/
def catalogCall (form : CallForm) (args : List CallArg) : Option Command := do
  let f ← args.foldlM (CallFill.add form) ⟨form.slots.map fun _ => none, none, 0⟩
  let slot (k : Nat) : Option Int := f.slots.getD k none
  return .catalog form.op (slot 0) (slot 1) (slot 2) (slot 3) (slot 4) (slot 5) (f.bytes.getD [])

/-- The transaction a call stands for (R82); nothing where the name or an argument is none of the form's. -/
def Call.command (c : Call) : Option Command :=
  match c.name, c.args with
  | "RAW", [⟨none, .num op⟩, ⟨none, .bytes bs⟩] =>
    if 0 ≤ op ∧ op < 256 then some (encode (.raw (BitVec.ofInt 8 op) bs)) else none
  | name, args => (findForm name callForms).bind fun form => catalogCall form args

/-! ### The characters of a call -/

/-- A token of the text. -/
inductive CallTok where
  | word (w : String)
  | value (v : CallValue)
  | lpar
  | rpar
  | comma
  | equals
  deriving DecidableEq, Repr

/-- Where in the text the reading is. -/
inductive LexMode where
  | between
  | word (acc : List Char)
  | hex (half : Option Nat) (acc : List Byte)
  | quoted (acc : List Byte)
  deriving DecidableEq, Repr

/-- The value of a digit: its place in R90's sixteen digits, whichever its letter case (R91; log 15). -/
def hexValue (digit : Char) : Option Nat :=
  let place := hexDigits.idxOf digit.toUpper
  if place < hexDigits.length then some place else none

/-- A digit string in the given base. -/
def readDigits (base : Nat) (cs : List Char) : Option Nat :=
  if cs.isEmpty then none
  else cs.foldlM (fun n c => (hexValue c).bind fun d => if d < base then some (n * base + d) else none) 0

/-- A number without a sign: decimal unless written `0xNN` (R82). -/
def readNat : List Char → Option Nat
  | '0' :: 'x' :: cs => readDigits 16 cs
  | cs => readDigits 10 cs

/-- A run of word characters: a number where it begins with a digit or a minus sign, else a name. -/
def wordTok (cs : List Char) : Option CallTok :=
  match cs with
  | '-' :: rest => (readNat rest).map fun n => .value (.num (-n))
  | c :: _ => if c.isDigit then (readNat cs).map fun n => .value (.num n) else some (.word (String.ofList cs))
  | [] => none

/-- A character outside words, byte lists and quotes: the token it is, if any, and how reading goes on. -/
def lexChar (c : Char) : Option (List CallTok × LexMode) :=
  if c = ' ' then some ([], .between)
  else if c = '(' then some ([.lpar], .between)
  else if c = ')' then some ([.rpar], .between)
  else if c = ',' then some ([.comma], .between)
  else if c = '=' then some ([.equals], .between)
  else if c = '<' then some ([], .hex none [])
  else if c = '"' then some ([], .quoted [])
  else if c.isAlphanum ∨ c = '-' then some ([], .word [c])
  else none

/-- The tokens of a text. -/
def lex : LexMode → List Char → Option (List CallTok)
  | .between, [] => some []
  | .word acc, [] => (wordTok acc.reverse).map fun t => [t]
  | .hex .., [] => none
  | .quoted _, [] => none
  | .between, c :: rest => (lexChar c).bind fun (ts, m) => (lex m rest).map (ts ++ ·)
  | .word acc, c :: rest =>
    if c.isAlphanum then lex (.word (c :: acc)) rest
    else (wordTok acc.reverse).bind fun t => (lexChar c).bind fun (ts, m) => (lex m rest).map (t :: ts ++ ·)
  | .hex none acc, c :: rest =>
    if c = '>' then (lex .between rest).map (.value (.bytes acc.reverse) :: ·)
    else if c = ' ' then lex (.hex none acc) rest
    else (hexValue c).bind fun d => lex (.hex (some d) acc) rest
  | .hex (some hi) acc, c :: rest => (hexValue c).bind fun d => lex (.hex none (BitVec.ofNat 8 (hi * 16 + d) :: acc)) rest
  | .quoted acc, c :: rest =>
    if c = '"' then (lex .between rest).map (.value (.bytes acc.reverse) :: ·)
    else if c.toNat < 128 then lex (.quoted (BitVec.ofNat 8 c.toNat :: acc)) rest
    else none

/-- One or more arguments, separated by commas, up to the closing parenthesis. -/
def parseArgs : List CallTok → Option (List CallArg)
  | [.value v, .rpar] => some [⟨none, v⟩]
  | [.word n, .equals, .value v, .rpar] => some [⟨some n, v⟩]
  | .value v :: .comma :: rest => (parseArgs rest).map (⟨none, v⟩ :: ·)
  | .word n :: .equals :: .value v :: .comma :: rest => (parseArgs rest).map (⟨some n, v⟩ :: ·)
  | _ => none

/-- A call from its tokens. -/
def parseCall : List CallTok → Option Call
  | [.word name, .lpar, .rpar] => some ⟨name, []⟩
  | .word name :: .lpar :: rest => (parseArgs rest).map (⟨name, ·⟩)
  | _ => none

/-- The transaction a text stands for (R82). -/
def readCommand (text : String) : Option Command :=
  (lex .between text.toList).bind fun ts => (parseCall ts).bind Call.command

end Sys2Proof.Machine
end

