-- ==== Sys2Proof/Machine/Marshal.lean ====
section
/-!
DEFINITION. The catalog function `marshal` (R130), and the frame a transaction asks for.
-/

namespace Sys2Proof.Machine

/-- The opcode and payload of an instruction, or the error its arguments raise (R130, R131). -/
def marshalInstr : Instr → Marshalled
  | .handshake => marshalHandshake
  | .setBaudrate rate => marshalSetBaudrate rate
  | .readBaudrate => marshalReadBaudrate
  | .readStorageMode => marshalReadStorageMode
  | .setStorageMode mode => marshalSetStorageMode mode
  | .sleepMode => marshalSleepMode
  | .refreshAndUpdate => marshalRefreshAndUpdate
  | .currentDisplayRotation => marshalCurrentDisplayRotation
  | .setCurrentDisplayRotation rotation => marshalSetCurrentDisplayRotation rotation
  | .importFontLibrary => marshalImportFontLibrary
  | .importImage => marshalImportImage
  | .setPallet foreground background => marshalSetPallet foreground background
  | .getPallet => marshalGetPallet
  | .setEnFontSize size => marshalSetEnFontSize size
  | .setZhFontSize size => marshalSetZhFontSize size
  | .displayText x y text => marshalDisplayText x y text
  | .drawCircle x y radius => marshalDrawCircle x y radius
  | .fillCircle x y radius => marshalFillCircle x y radius
  | .drawTriangle x1 y1 x2 y2 x3 y3 => marshalDrawTriangle x1 y1 x2 y2 x3 y3
  | .fillTriangle x1 y1 x2 y2 x3 y3 => marshalFillTriangle x1 y1 x2 y2 x3 y3
  | .clearScreen => marshalClearScreen
  | .displayImage x y filename => marshalDisplayImage x y filename
  | .raw op payload => marshalRaw op payload

/-- `marshal(c)` (R130): an unknown opcode comes first (R195), then the variant's own arguments. -/
def marshal (c : Command) : Marshalled := (decode c).bind marshalInstr

/-- The frame of a transaction: `encode_frame` of what `marshal` gives (R113). -/
def commandFrame (c : Command) : Except CmdError (List Byte) := (marshal c).bind fun r => encodeFrame r.1 r.2

end Sys2Proof.Machine
end

