-- ==== Sys2Proof/WellFormed.lean ====
section
/-!
DEFINITION. Which instructions the framer frames without an error: every required argument is there, every supplied argument
is in its legal set (R6, R75), and the payload fits the 16-bit LENGTH field (R102). An instruction that is not well formed
still executes: its accept step reports an error (R190).
-/

namespace Sys2Proof

/-- A supplied argument in `0 .. 2^w - 1` (R9 `in_range_w`). -/
def reqUnsigned (w : Nat) : Option Int → Bool
  | none => false
  | some v => decide (0 ≤ v) && decide (v < 2 ^ w)

/-- An argument that may be left out, in `lo .. hi` where it is supplied. -/
def optBetween (lo hi : Int) : Option Int → Bool
  | none => true
  | some v => decide (lo ≤ v) && decide (v ≤ hi)

/-- The checks of R6, R75 and R102, by instruction. -/
def Instr.wellFormed : Instr → Bool
  | .handshake => true
  | .setBaudrate rate => reqUnsigned 32 rate
  | .readBaudrate => true
  | .readStorageMode => true
  | .setStorageMode mode => optBetween 0 1 mode
  | .sleepMode => true
  | .refreshAndUpdate => true
  | .currentDisplayRotation => true
  | .setCurrentDisplayRotation rotation => optBetween 0 2 rotation
  | .importFontLibrary => true
  | .importImage => true
  | .setPallet foreground background => optBetween 0 3 foreground && optBetween 0 3 background
  | .getPallet => true
  | .setEnFontSize size => optBetween 1 3 size
  | .setZhFontSize size => optBetween 1 3 size
  | .displayText x y text => reqUnsigned 16 x && reqUnsigned 16 y && decide (text.length ≤ 65521)
  | .drawCircle x y radius => reqUnsigned 16 x && reqUnsigned 16 y && reqUnsigned 16 radius
  | .fillCircle x y radius => reqUnsigned 16 x && reqUnsigned 16 y && reqUnsigned 16 radius
  | .drawTriangle x1 y1 x2 y2 x3 y3 => reqUnsigned 16 x1 && reqUnsigned 16 y1 && reqUnsigned 16 x2
      && reqUnsigned 16 y2 && reqUnsigned 16 x3 && reqUnsigned 16 y3
  | .fillTriangle x1 y1 x2 y2 x3 y3 => reqUnsigned 16 x1 && reqUnsigned 16 y1 && reqUnsigned 16 x2
      && reqUnsigned 16 y2 && reqUnsigned 16 x3 && reqUnsigned 16 y3
  | .clearScreen => true
  | .displayImage x y filename => reqUnsigned 16 x && reqUnsigned 16 y && decide (filename.length ≤ 65521)
  | .raw _ payload => decide (payload.length ≤ 65526)

end Sys2Proof
end

