-- ==== Sys2Proof/Safety.lean ====
section
/-!
DEFINITION. The terms that the statements use: legal states (R35), what a successful and a rejected accept leave (R38, R193),
the frame in flight and how far it has been sent (R113), and what is still to come on the stream (R58).
-/

namespace Sys2Proof.Machine

/-- The payload of the frame in flight, `PBUF[0..PLEN)` (R24). -/
def State.payloadBytes (s : State) : List Byte := (List.range s.plen.toNat).map s.pbufByte

/-- The frame that the latched registers describe (R113). -/
def State.frame (s : State) : List Byte := frameBytes s.op s.payloadBytes

/-- How many bytes of the frame in flight have been emitted, by PHASE and IDX (R112). -/
def State.position (s : State) : Nat :=
  match s.phase with
  | .idle => 0
  | .header => 0
  | .lenHi => 1
  | .lenLo => 2
  | .opcode => 3
  | .payload => 4 + s.idx.toNat
  | .footer => 4 + s.plen.toNat + s.idx.toNat
  | .checksum => 8 + s.plen.toNat

/-- The bytes the sink has taken, in order (R58). -/
def State.stream (s : State) : List Byte := s.env.received.map (·.data)

/-- What is still to be emitted of the frame in flight. -/
def State.remaining (s : State) : List Byte := if s.phase = .idle then [] else s.frame.drop s.position

/-- The frames that a list of offers asks for, in accept order; a rejected command contributes no byte (R58). -/
def offeredFrames : List (Option Command) → List Byte
  | [] => []
  | none :: rest => offeredFrames rest
  | some c :: rest => (match commandFrame c with | .ok f => f | .error _ => []) ++ offeredFrames rest

/-- The legal values of `(KIND, FIELD)` (R27, R35). -/
def legalStatus (status : BitVec 5) : Bool :=
  (kindOf status == kindOk && fieldOf status == 0) || (kindOf status == kindArgument && fieldOf status != 0)
    || (kindOf status == kindEncoding && fieldOf status == 0)

/-- R35, the legal states. (That PBUF keeps its canonical form is a statement of its own.) -/
structure LegalState (s : State) : Prop where
  /-- Item 1, first half. -/
  plen_le : s.plen.toNat ≤ 65526
  /-- Item 1, second half. -/
  len_eq : s.phase ≠ .idle → s.len.toNat = s.plen.toNat + 9
  /-- Item 2. -/
  payload_idx : s.phase = .payload → 1 ≤ s.plen.toNat ∧ s.idx.toNat < s.plen.toNat
  /-- Item 3. -/
  footer_idx : s.phase = .footer → s.idx.toNat ≤ 3
  /-- Item 4. -/
  other_idx : s.phase ≠ .payload → s.phase ≠ .footer → s.idx = 0
  /-- Item 5: the bytes emitted since the last accept are the last of the stream, they are the frame's first
  bytes, and CHK is their XOR. -/
  chk_eq : s.phase ≠ .idle → ∃ earlier emitted, s.stream = earlier ++ emitted ∧ emitted = s.frame.take s.position ∧
    s.chk = xorFold emitted
  /-- Item 6. -/
  status_legal : legalStatus s.status = true

/-- What a successful accept of opcode `op` and payload `p` leaves (R110), PBUF from PLEN on apart: nothing reads those entries
(R24), and a statement of its own says that they are kept (log 5). -/
structure Accepted (s t : State) (op : Byte) (p : List Byte) : Prop where
  phase : t.phase = .header
  op : t.op = op
  len : t.len.toNat = p.length + 9
  plen : t.plen.toNat = p.length
  /-- `PBUF[i] <- p[i]` (R51). -/
  written : ∀ i b, p[i]? = some b → t.pbufByte i = b
  idx : t.idx = 0
  chk : t.chk = 0x00
  kind : t.statusKind = 0
  field : t.statusField = 0
  /-- No byte is emitted and the environment is as it was. -/
  env : t.env = s.env

/-- What an accept that raises an error leaves: STATUS with this kind and field, every other piece of state as it was
(R193, R38). -/
structure Rejected (s t : State) (kind : BitVec 2) (field : BitVec 3) : Prop where
  kind : t.statusKind = kind
  field : t.statusField = field
  phase : t.phase = s.phase
  op : t.op = s.op
  len : t.len = s.len
  plen : t.plen = s.plen
  pbuf : t.pbuf = s.pbuf
  gen : t.pbufGen = s.pbufGen
  idx : t.idx = s.idx
  chk : t.chk = s.chk
  env : t.env = s.env

/-- The KIND number of an error (R190, R194). -/
def errorKind : CmdError → BitVec 2
  | .argument _ => 1
  | .encoding => 2

/-- The FIELD number of an error (R191, R192, R194). -/
def errorField : CmdError → BitVec 3
  | .argument (.slot k) => BitVec.ofNat 3 (k.val + 1)
  | .argument .opcode => 7
  | .encoding => 0

/-- `n` emit steps in a row, each one moving a byte to the sink (R113). -/
def emits : Nat → State → Host.Outcome State Fault Refusal
  | 0, s => .next s
  | n + 1, s =>
    match s.emit with
    | .next t => emits n t
    | .fault r => .fault r
    | .refused r => .refused r

/-- How many slots a catalog opcode's variant uses: A0 up to this one (R75). -/
def slotsUsed (op : Byte) : Nat :=
  match op with
  | 0x01#8 | 0x07#8 | 0x0D#8 | 0x1E#8 | 0x1F#8 => 1
  | 0x10#8 | 0x30#8 | 0x70#8 => 2
  | 0x26#8 | 0x27#8 => 3
  | 0x28#8 | 0x29#8 => 6
  | _ => 0

/-- Whether a transaction's BYTES are used (R75, R135). -/
def usesBytes (c : Command) : Bool := c.raw || c.op == 0x30 || c.op == 0x70

/-- Slot `k` of a transaction. -/
def slotOf (c : Command) (k : Fin 6) : Slot :=
  match k with
  | 0 => c.a0
  | 1 => c.a1
  | 2 => c.a2
  | 3 => c.a3
  | 4 => c.a4
  | 5 => c.a5

/-- The 234 catalog opcodes that are assigned to no variant, as R79 lists them. -/
def unassignedOps : List Nat :=
  List.range' 0x03 3 ++ [0x09, 0x0B] ++ List.range' 0x12 12 ++ List.range' 0x20 6 ++ List.range' 0x2A 4 ++ [0x2F]
    ++ List.range' 0x31 63 ++ List.range' 0x71 143

/-- An argument that is supplied and in `0 .. 65535` (R6, R131 `U16`). -/
def inU16 (a : Option Int) : Prop := ∃ v, a = some v ∧ 0 ≤ v ∧ v ≤ 65535

/-- Two bytes, most significant first, by division (R52). -/
def bytes16 (v : Int) : List Byte := [BitVec.ofInt 8 (v / 256), BitVec.ofInt 8 v]

/-- Four bytes, most significant first, by division (R52). -/
def bytes32 (v : Int) : List Byte :=
  [BitVec.ofInt 8 (v / 16777216), BitVec.ofInt 8 (v / 65536), BitVec.ofInt 8 (v / 256), BitVec.ofInt 8 v]

/-- Whether a slot of a catalog opcode's variant holds no error: present where it is required, and in its legal set where it
is present (R75, R191). -/
def slotFine (op : Byte) (a : Option Int) : Bool :=
  match op with
  | 0x01#8 => reqUnsigned 32 a
  | 0x07#8 => optBetween 0 1 a
  | 0x0D#8 => optBetween 0 2 a
  | 0x10#8 => optBetween 0 3 a
  | 0x1E#8 | 0x1F#8 => optBetween 1 3 a
  | _ => reqUnsigned 16 a

/-- The frame length of each format (R78), by opcode. -/
def frameLength (c : Command) : Nat :=
  if c.raw then c.bytes.length + 9
  else
    match c.op with
    | 0x01#8 => 13
    | 0x07#8 | 0x0D#8 | 0x1E#8 | 0x1F#8 => 10
    | 0x10#8 => 11
    | 0x26#8 | 0x27#8 => 15
    | 0x28#8 | 0x29#8 => 21
    | 0x30#8 | 0x70#8 => c.bytes.length + 14
    | _ => 9

/-- The transfers that carry a frame: `out_last` on its last byte only (R31, R113). -/
def frameTransfers (f : List Byte) : List Transfer := f.mapIdx fun j b => ⟨b, decide (j + 1 = f.length)⟩

/-- The phase before the emit step number `k + 1` of a frame with `n` payload bytes (R112). -/
def phaseAt (n k : Nat) : Phase :=
  if k = 0 then .header
  else if k = 1 then .lenHi
  else if k = 2 then .lenLo
  else if k = 3 then .opcode
  else if k < 4 + n then .payload
  else if k < 8 + n then .footer
  else if k = 8 + n then .checksum
  else .idle

/-- The state with another list of offers, as the producer may change its inputs (R216). -/
def State.withOffers (s : State) (offers : List (Option Command)) : State :=
  { s with env := { s.env with producer := offers } }

end Sys2Proof.Machine
end

