-- ==== Sys2Proof/Certificates/Slice0/Obligations.lean ====
section
/-!
DEFINITION. The statements about the model. Each says which rule of spec/ it formalises. Statements about a step hold for every
state that meets their hypotheses, whatever the environment does next.
-/

open Sys2Proof Sys2Proof.Machine

/-! ### Encoding -/

/-- Decoding the transaction of any instruction gives it back, with every argument at every value (R72, R74, R75). -/
def Obligations.DecodeOfEncodeIsTheInstruction : Prop := ∀ i : Instr, decode (encode i) = .ok i

/-- R135 (and R73 for RAW): two transactions with the same selector that agree on the slots and the bytes the variant uses
marshal to the same result, an error included. -/
def Obligations.UnusedInputsAreIgnored : Prop :=
  ∀ c d : Command, c.raw = d.raw → c.op = d.op →
    (∀ k : Fin 6, c.raw = false → k.val < slotsUsed c.op → (slotOf c k).arg = (slotOf d k).arg) →
    (usesBytes c = true → c.bytes = d.bytes) → marshal c = marshal d

/-- R79: the 234 unassigned catalog opcodes, and no other, are errors; the accept step records FIELD 7 and emits no byte. -/
def Obligations.UnassignedOpcodeIsAnArgumentError : Prop :=
  unassignedOps.length = 234 ∧ unassignedOps.Nodup ∧
  ∀ c : Command, c.raw = false →
    (c.op.toNat ∈ unassignedOps ↔ decode c = .error (.argument .opcode)) ∧
    ∀ s : State, s.rst = false → s.phase = .idle → s.offered = some c → c.op.toNat ∈ unassignedOps →
      ∃ t, step s = .next (t.tick true) ∧ Rejected s t 1 7

/-- The opcode table's rows do not overlap, and the decoder follows them: a selector is taken by the one row of the instruction
it decodes to, or by none where decoding is an error (R72, R74, R79). -/
def Obligations.DecoderFollowsTheOpcodeTable : Prop :=
  ∀ c : Command, (opcodeTable.filter (·.takes c.sel)).map (·.mnemonic) =
    match decode c with
    | .ok i => [i.mnemonic]
    | .error _ => []

/-- A few selectors written out from R72 and R74, bit by bit. -/
def Obligations.SelectorWordsDecodeAsWritten : Prop :=
  decodeTableWord 16 0b000000000 = some .handshake ∧
  decodeTableWord 16 0b000000001 = some (.setBaudrate none) ∧
  decodeTableWord 16 0b000000111 = some (.setStorageMode none) ∧
  decodeTableWord 16 0b000010000 = some (.setPallet none none) ∧
  decodeTableWord 16 0b000100110 = some (.drawCircle none none none) ∧
  decodeTableWord 16 0b000101001 = some (.fillTriangle none none none none none none) ∧
  decodeTableWord 16 0b000110000 = some (.displayText none none []) ∧
  decodeTableWord 16 0b001110000 = some (.displayImage none none []) ∧
  decodeTableWord 16 0b100000011 = some (.raw 0x03 []) ∧
  decodeTableWord 16 0b000000011 = none

/-! ### The frame function -/

/-- R100: the frame, byte by byte. -/
def Obligations.FrameIsLaidOutAsSpecified : Prop :=
  ∀ (op : Byte) (p : List Byte), p.length ≤ 65526 →
    encodeFrame op p = .ok ([0xA5, BitVec.ofNat 8 ((p.length + 9) / 256), BitVec.ofNat 8 ((p.length + 9) % 256), op] ++ p
      ++ [0xCC, 0x33, 0xC3, 0x3C]
      ++ [xorFold ([0xA5, BitVec.ofNat 8 ((p.length + 9) / 256), BitVec.ofNat 8 ((p.length + 9) % 256), op] ++ p
        ++ [0xCC, 0x33, 0xC3, 0x3C])])

/-- R102: a payload over 65526 bytes, and no other, is an EncodingError; no byte is emitted and nothing is truncated. -/
def Obligations.OversizePayloadIsAnEncodingError : Prop :=
  (∀ (op : Byte) (p : List Byte), encodeFrame op p = .error .encoding ↔ 65526 < p.length) ∧
  ∀ (s : State) (c : Command) (op : Byte) (p : List Byte), s.rst = false → s.phase = .idle → s.offered = some c →
    marshal c = .ok (op, p) → 65526 < p.length → ∃ t, step s = .next (t.tick true) ∧ Rejected s t 2 0

/-- R107, all six items. -/
def Obligations.FrameLaws : Prop :=
  ∀ (op : Byte) (p f : List Byte), encodeFrame op p = .ok f →
    (f.length = p.length + 9 ∧ ∃ hi lo, f[1]? = some hi ∧ f[2]? = some lo ∧ hi.toNat * 256 + lo.toNat = f.length) ∧
    (f[0]? = some 0xA5 ∧ f[3]? = some op ∧ (f.drop 4).take p.length = p ∧
      (f.drop (f.length - 5)).take 4 = [0xCC, 0x33, 0xC3, 0x3C]) ∧
    f[f.length - 1]? = some (xorFold (f.take (f.length - 1))) ∧
    xorFold f = 0x00 ∧
    (xorFold [0xCC, 0x33, 0xC3, 0x3C] = 0x00 ∧
      f[f.length - 1]? = some (0xA5 ^^^ BitVec.ofNat 8 ((p.length + 9) / 256) ^^^ BitVec.ofNat 8 ((p.length + 9) % 256)
        ^^^ op ^^^ xorFold p)) ∧
    (∀ (k : Nat) (b : Byte) (g : List Byte), k < p.length → p[k]? ≠ some b → encodeFrame op (p.set k b) = .ok g →
      g.length = f.length ∧ ∀ j, g[j]? ≠ f[j]? ↔ j = 4 + k ∨ j = f.length - 1)

/-- R78: the length of every frame, by format. -/
def Obligations.FrameLengthByFormat : Prop :=
  ∀ (c : Command) (f : List Byte), commandFrame c = .ok f → f.length = frameLength c

/-- A reader of the stream that goes by LENGTH finds the first frame and the rest (R71). -/
def Obligations.ReaderFindsEachFrame : Prop :=
  ∀ (op : Byte) (p f rest : List Byte), encodeFrame op p = .ok f → nextFrame (f ++ rest) = some (f, rest)

/-- R90: the rendering is the hex pairs joined by single spaces; two byte sequences with one rendering are equal. -/
def Obligations.DescribeRendersHexPairs : Prop :=
  describe [] = "" ∧
  (∀ bytes : List Byte, describe bytes = String.intercalate " " (bytes.map fun b =>
    String.ofList ["0123456789ABCDEF".toList[b.toNat / 16]!, "0123456789ABCDEF".toList[b.toNat % 16]!])) ∧
  (encodeFrame 0x00 []).map describe = .ok "A5 00 09 00 CC 33 C3 3C AC"

/-- R82: the two transactions that the rule writes out, and one call for each of its other points. R82 writes neither BYTES nor the
value of a slot that is not present: that BYTES is empty where a call leaves it out, and that such a value is 0, is the model's
choice (log 15), and every line here but the fourth, the fifth and the last rests on it for BYTES, every line for the value. -/
def Obligations.TextFormReadsAsWritten : Prop :=
  readCommand "SetPallet()" = some ⟨false, 0x10, ⟨false, 0⟩, ⟨false, 0⟩, ⟨false, 0⟩, ⟨false, 0⟩, ⟨false, 0⟩, ⟨false, 0⟩, []⟩ ∧
  readCommand "DrawCircle(1, 2, 3)" =
    some ⟨false, 0x26, ⟨true, 1⟩, ⟨true, 2⟩, ⟨true, 3⟩, ⟨false, 0⟩, ⟨false, 0⟩, ⟨false, 0⟩, []⟩ ∧
  readCommand "SetPallet(background=1)" = some (encode (.setPallet none (some 1))) ∧
  readCommand "DisplayImage(0, 0, \"PIC4.BMP\")" =
    some (encode (.displayImage (some 0) (some 0) [0x50, 0x49, 0x43, 0x34, 0x2E, 0x42, 0x4D, 0x50])) ∧
  readCommand "DisplayText(0, 0, <>)" = some (encode (.displayText (some 0) (some 0) [])) ∧
  readCommand "FillCircle(0x0100, 0x0200, 0x0010)" = some (encode (.fillCircle (some 256) (some 512) (some 16))) ∧
  readCommand "RAW(0x55, <CC 33 C3 3C>)" = some (encode (.raw 0x55 [0xCC, 0x33, 0xC3, 0x3C]))

/-- No two byte sequences have the same rendering (from R90). -/
def Obligations.DescribeLosesNothing : Prop := ∀ a b : List Byte, describe a = describe b → a = b

/-! ### The instructions -/

/-- R140, R142, R143, R145 to R147, R149, R150, R152, R160: from IDLE each of the ten variants without arguments is accepted with
its opcode and an empty payload, whatever else the state holds; the opcode alone picks it, whatever the slots and the bytes
are; and the example frames. -/
def Obligations.NoArgumentVariantsAreAccepted : Prop :=
  (∀ (s : State) (i : Instr) (op : Byte), s.phase = .idle →
    (i, op) ∈ [(Instr.handshake, 0x00), (.readBaudrate, 0x02), (.readStorageMode, 0x06), (.sleepMode, 0x08),
      (.refreshAndUpdate, 0x0A), (.currentDisplayRotation, 0x0C), (.importFontLibrary, 0x0E), (.importImage, 0x0F),
      (.getPallet, 0x11), (.clearScreen, 0x2E)] →
    (∃ t, exec i s = .next t ∧ Accepted s t op []) ∧ ∀ c : Command, c.raw = false → c.op = op → decode c = .ok i) ∧
  (∀ (i : Instr) (op c : Byte),
    (i, op, c) ∈ [(Instr.handshake, 0x00, 0xAC), (.readBaudrate, 0x02, 0xAE), (.readStorageMode, 0x06, 0xAA),
      (.sleepMode, 0x08, 0xA4), (.refreshAndUpdate, 0x0A, 0xA6), (.currentDisplayRotation, 0x0C, 0xA0),
      (.importFontLibrary, 0x0E, 0xA2), (.importImage, 0x0F, 0xA3), (.getPallet, 0x11, 0xBD), (.clearScreen, 0x2E, 0x82)] →
    commandFrame (encode i) = .ok [0xA5, 0x00, 0x09, op, 0xCC, 0x33, 0xC3, 0x3C, c])

/-- R141: every 32-bit rate is accepted and laid out most significant byte first; any other is ArgumentError(1). -/
def Obligations.SetBaudrateResult : Prop :=
  (∀ (s : State) (rate : Int), s.phase = .idle → 0 ≤ rate → rate < 4294967296 →
    ∃ t, exec (.setBaudrate (some rate)) s = .next t ∧ Accepted s t 0x01 (bytes32 rate)) ∧
  (∀ (s : State) (rate : Option Int), s.phase = .idle → (∀ v, rate = some v → v < 0 ∨ 4294967296 ≤ v) →
    ∃ t, exec (.setBaudrate rate) s = .next t ∧ Rejected s t 1 1) ∧
  commandFrame (encode (.setBaudrate (some 9600))) =
    .ok [0xA5, 0x00, 0x0D, 0x01, 0x00, 0x00, 0x25, 0x80, 0xCC, 0x33, 0xC3, 0x3C, 0x0C]

/-- R144: storage mode 0 or 1, default 0; any other value is ArgumentError(1). -/
def Obligations.SetStorageModeResult : Prop :=
  (∀ (s : State) (mode : Int), s.phase = .idle → mode ∈ ([0, 1] : List Int) →
    ∃ t, exec (.setStorageMode (some mode)) s = .next t ∧ Accepted s t 0x07 [BitVec.ofInt 8 mode]) ∧
  (∀ s : State, s.phase = .idle → ∃ t, exec (.setStorageMode none) s = .next t ∧ Accepted s t 0x07 [0x00]) ∧
  (∀ (s : State) (mode : Int), s.phase = .idle → mode ∉ ([0, 1] : List Int) →
    ∃ t, exec (.setStorageMode (some mode)) s = .next t ∧ Rejected s t 1 1) ∧
  commandFrame (encode (.setStorageMode (some 1))) = .ok [0xA5, 0x00, 0x0A, 0x07, 0x01, 0xCC, 0x33, 0xC3, 0x3C, 0xA9] ∧
  commandFrame (encode (.setStorageMode none)) = .ok [0xA5, 0x00, 0x0A, 0x07, 0x00, 0xCC, 0x33, 0xC3, 0x3C, 0xA8]

/-- R148: rotation 0, 1 or 2 written as given, default 0; any other value is ArgumentError(1). -/
def Obligations.SetRotationResult : Prop :=
  (∀ (s : State) (rotation : Int), s.phase = .idle → rotation ∈ ([0, 1, 2] : List Int) →
    ∃ t, exec (.setCurrentDisplayRotation (some rotation)) s = .next t ∧ Accepted s t 0x0D [BitVec.ofInt 8 rotation]) ∧
  (∀ s : State, s.phase = .idle →
    ∃ t, exec (.setCurrentDisplayRotation none) s = .next t ∧ Accepted s t 0x0D [0x00]) ∧
  (∀ (s : State) (rotation : Int), s.phase = .idle → rotation ∉ ([0, 1, 2] : List Int) →
    ∃ t, exec (.setCurrentDisplayRotation (some rotation)) s = .next t ∧ Rejected s t 1 1) ∧
  commandFrame (encode (.setCurrentDisplayRotation (some 1))) =
    .ok [0xA5, 0x00, 0x0A, 0x0D, 0x01, 0xCC, 0x33, 0xC3, 0x3C, 0xA3] ∧
  commandFrame (encode (.setCurrentDisplayRotation (some 2))) =
    .ok [0xA5, 0x00, 0x0A, 0x0D, 0x02, 0xCC, 0x33, 0xC3, 0x3C, 0xA0] ∧
  commandFrame (encode (.setCurrentDisplayRotation none)) =
    .ok [0xA5, 0x00, 0x0A, 0x0D, 0x00, 0xCC, 0x33, 0xC3, 0x3C, 0xA2]

/-- R153, R154: the font sizes 1, 2, 3 written as given, default 1; any other value is ArgumentError(1). -/
def Obligations.SetFontSizeResult : Prop :=
  (∀ (s : State) (size : Int), s.phase = .idle → size ∈ ([1, 2, 3] : List Int) →
    (∃ t, exec (.setEnFontSize (some size)) s = .next t ∧ Accepted s t 0x1E [BitVec.ofInt 8 size]) ∧
    (∃ t, exec (.setZhFontSize (some size)) s = .next t ∧ Accepted s t 0x1F [BitVec.ofInt 8 size])) ∧
  (∀ s : State, s.phase = .idle →
    (∃ t, exec (.setEnFontSize none) s = .next t ∧ Accepted s t 0x1E [0x01]) ∧
    (∃ t, exec (.setZhFontSize none) s = .next t ∧ Accepted s t 0x1F [0x01])) ∧
  (∀ (s : State) (size : Int), s.phase = .idle → size ∉ ([1, 2, 3] : List Int) →
    (∃ t, exec (.setEnFontSize (some size)) s = .next t ∧ Rejected s t 1 1) ∧
    (∃ t, exec (.setZhFontSize (some size)) s = .next t ∧ Rejected s t 1 1)) ∧
  commandFrame (encode (.setEnFontSize none)) = .ok [0xA5, 0x00, 0x0A, 0x1E, 0x01, 0xCC, 0x33, 0xC3, 0x3C, 0xB0] ∧
  commandFrame (encode (.setZhFontSize (some 3))) = .ok [0xA5, 0x00, 0x0A, 0x1F, 0x03, 0xCC, 0x33, 0xC3, 0x3C, 0xB3]

/-- SetPallet: each colour 0..3, each with its own default, foreground before background (R151). The two default numbers, 0 and 3,
are the model's (log 6: the spec takes them from general knowledge, D7). -/
def Obligations.SetPalletResult : Prop :=
  (∀ (s : State) (fg bg : Option Int), s.phase = .idle → optBetween 0 3 fg = true → optBetween 0 3 bg = true →
    ∃ t, exec (.setPallet fg bg) s = .next t ∧
      Accepted s t 0x10 [BitVec.ofInt 8 (fg.getD 0), BitVec.ofInt 8 (bg.getD 3)]) ∧
  (∀ (s : State) (fg : Int) (bg : Option Int), s.phase = .idle → fg ∉ ([0, 1, 2, 3] : List Int) →
    ∃ t, exec (.setPallet (some fg) bg) s = .next t ∧ Rejected s t 1 1) ∧
  (∀ (s : State) (fg : Option Int) (bg : Int), s.phase = .idle → optBetween 0 3 fg = true →
    bg ∉ ([0, 1, 2, 3] : List Int) → ∃ t, exec (.setPallet fg (some bg)) s = .next t ∧ Rejected s t 1 2)

/-- R156, R157: three 16-bit numbers, most significant byte first; the first one that is absent or out of range is reported. -/
def Obligations.CircleResult : Prop :=
  (∀ (s : State) (x y r : Int), s.phase = .idle → inU16 (some x) → inU16 (some y) → inU16 (some r) →
    (∃ t, exec (.drawCircle (some x) (some y) (some r)) s = .next t ∧
      Accepted s t 0x26 (bytes16 x ++ bytes16 y ++ bytes16 r)) ∧
    (∃ t, exec (.fillCircle (some x) (some y) (some r)) s = .next t ∧
      Accepted s t 0x27 (bytes16 x ++ bytes16 y ++ bytes16 r))) ∧
  (∀ (s : State) (a : Fin 3 → Option Int) (k : Fin 3), s.phase = .idle → (∀ j < k, inU16 (a j)) → ¬ inU16 (a k) →
    (∃ t, exec (.drawCircle (a 0) (a 1) (a 2)) s = .next t ∧ Rejected s t 1 (BitVec.ofNat 3 (k.val + 1))) ∧
    (∃ t, exec (.fillCircle (a 0) (a 1) (a 2)) s = .next t ∧ Rejected s t 1 (BitVec.ofNat 3 (k.val + 1)))) ∧
  commandFrame (encode (.drawCircle (some 100) (some 200) (some 50))) =
    .ok [0xA5, 0x00, 0x0F, 0x26, 0x00, 0x64, 0x00, 0xC8, 0x00, 0x32, 0xCC, 0x33, 0xC3, 0x3C, 0x12] ∧
  commandFrame (encode (.fillCircle (some 100) (some 200) (some 50))) =
    .ok [0xA5, 0x00, 0x0F, 0x27, 0x00, 0x64, 0x00, 0xC8, 0x00, 0x32, 0xCC, 0x33, 0xC3, 0x3C, 0x13]

/-- R158, R159: six 16-bit numbers, most significant byte first; the first one that is absent or out of range is reported. -/
def Obligations.TriangleResult : Prop :=
  (∀ (s : State) (v : Fin 6 → Int), s.phase = .idle → (∀ k, inU16 (some (v k))) →
    (∃ t, exec (.drawTriangle (some (v 0)) (some (v 1)) (some (v 2)) (some (v 3)) (some (v 4)) (some (v 5))) s = .next t ∧
      Accepted s t 0x28 (bytes16 (v 0) ++ bytes16 (v 1) ++ bytes16 (v 2) ++ bytes16 (v 3) ++ bytes16 (v 4) ++ bytes16 (v 5))) ∧
    (∃ t, exec (.fillTriangle (some (v 0)) (some (v 1)) (some (v 2)) (some (v 3)) (some (v 4)) (some (v 5))) s = .next t ∧
      Accepted s t 0x29 (bytes16 (v 0) ++ bytes16 (v 1) ++ bytes16 (v 2) ++ bytes16 (v 3) ++ bytes16 (v 4) ++ bytes16 (v 5)))) ∧
  (∀ (s : State) (a : Fin 6 → Option Int) (k : Fin 6), s.phase = .idle → (∀ j < k, inU16 (a j)) → ¬ inU16 (a k) →
    (∃ t, exec (.drawTriangle (a 0) (a 1) (a 2) (a 3) (a 4) (a 5)) s = .next t ∧
      Rejected s t 1 (BitVec.ofNat 3 (k.val + 1))) ∧
    (∃ t, exec (.fillTriangle (a 0) (a 1) (a 2) (a 3) (a 4) (a 5)) s = .next t ∧
      Rejected s t 1 (BitVec.ofNat 3 (k.val + 1)))) ∧
  commandFrame (encode (.drawTriangle (some 0x0A) (some 0x0A) (some 0x20) (some 0x80) (some 0x80) (some 0xFF))) =
    .ok [0xA5, 0x00, 0x15, 0x28, 0x00, 0x0A, 0x00, 0x0A, 0x00, 0x20, 0x00, 0x80, 0x00, 0x80, 0x00, 0xFF,
      0xCC, 0x33, 0xC3, 0x3C, 0x47] ∧
  commandFrame (encode (.fillTriangle (some 0x0A) (some 0x0A) (some 0x20) (some 0x80) (some 0x80) (some 0xFF))) =
    .ok [0xA5, 0x00, 0x15, 0x29, 0x00, 0x0A, 0x00, 0x0A, 0x00, 0x20, 0x00, 0x80, 0x00, 0x80, 0x00, 0xFF,
      0xCC, 0x33, 0xC3, 0x3C, 0x46]

/-- R155, R161 (R132): position, the bytes unchanged, one zero byte; x is reported before y, y before the length. -/
def Obligations.TextAndImageResult : Prop :=
  (∀ (s : State) (x y : Int) (bytes : List Byte), s.phase = .idle → inU16 (some x) → inU16 (some y) →
    bytes.length ≤ 65521 →
    (∃ t, exec (.displayText (some x) (some y) bytes) s = .next t ∧
      Accepted s t 0x30 (bytes16 x ++ bytes16 y ++ bytes ++ [0x00])) ∧
    (∃ t, exec (.displayImage (some x) (some y) bytes) s = .next t ∧
      Accepted s t 0x70 (bytes16 x ++ bytes16 y ++ bytes ++ [0x00]))) ∧
  (∀ (s : State) (x y : Option Int) (bytes : List Byte), s.phase = .idle → ¬ inU16 x →
    (∃ t, exec (.displayText x y bytes) s = .next t ∧ Rejected s t 1 1) ∧
    (∃ t, exec (.displayImage x y bytes) s = .next t ∧ Rejected s t 1 1)) ∧
  (∀ (s : State) (x y : Option Int) (bytes : List Byte), s.phase = .idle → inU16 x → ¬ inU16 y →
    (∃ t, exec (.displayText x y bytes) s = .next t ∧ Rejected s t 1 2) ∧
    (∃ t, exec (.displayImage x y bytes) s = .next t ∧ Rejected s t 1 2)) ∧
  (∀ (s : State) (x y : Option Int) (bytes : List Byte), s.phase = .idle → inU16 x → inU16 y → 65521 < bytes.length →
    (∃ t, exec (.displayText x y bytes) s = .next t ∧ Rejected s t 2 0) ∧
    (∃ t, exec (.displayImage x y bytes) s = .next t ∧ Rejected s t 2 0)) ∧
  commandFrame (encode (.displayText (some 10) (some 10) [0xC4, 0xE3, 0xBA, 0xC3, 0x57, 0x6F, 0x72, 0x6C, 0x64])) =
    .ok [0xA5, 0x00, 0x17, 0x30, 0x00, 0x0A, 0x00, 0x0A, 0xC4, 0xE3, 0xBA, 0xC3, 0x57, 0x6F, 0x72, 0x6C, 0x64, 0x00,
      0xCC, 0x33, 0xC3, 0x3C, 0x9E] ∧
  commandFrame (encode (.displayImage (some 0) (some 0) [0x50, 0x49, 0x43, 0x34, 0x2E, 0x42, 0x4D, 0x50])) =
    .ok [0xA5, 0x00, 0x16, 0x70, 0x00, 0x00, 0x00, 0x00, 0x50, 0x49, 0x43, 0x34, 0x2E, 0x42, 0x4D, 0x50, 0x00,
      0xCC, 0x33, 0xC3, 0x3C, 0xDC]

/-- R162: RAW frames any opcode and payload verbatim, up to the length bound. -/
def Obligations.RawResult : Prop :=
  (∀ (s : State) (op : Byte) (p : List Byte), s.phase = .idle → p.length ≤ 65526 →
    ∃ t, exec (.raw op p) s = .next t ∧ Accepted s t op p) ∧
  (∀ (s : State) (op : Byte) (p : List Byte), s.phase = .idle → 65526 < p.length →
    ∃ t, exec (.raw op p) s = .next t ∧ Rejected s t 2 0) ∧
  (∀ s : State, exec (.raw 0x00 []) s = exec .handshake s) ∧
  commandFrame (encode (.raw 0x03 [])) = .ok [0xA5, 0x00, 0x09, 0x03, 0xCC, 0x33, 0xC3, 0x3C, 0xAF] ∧
  commandFrame (encode (.raw 0x10 [0x09])) = .ok [0xA5, 0x00, 0x0A, 0x10, 0x09, 0xCC, 0x33, 0xC3, 0x3C, 0xB6]

/-- A busy framer takes no instruction: the state is as it was (R215, log 8). -/
def Obligations.BusyFramerTakesNothing : Prop :=
  ∀ (i : Instr) (s : State), s.phase ≠ .idle → exec i s = .next s

/-- From IDLE, an instruction starts a frame exactly where it is well formed: every required argument there, every supplied one
legal, the payload within the bound (R131, R191, R192; properties P3 and P4). -/
def Obligations.FrameStartsExactlyWhereWellFormed : Prop :=
  ∀ (i : Instr) (s : State), s.phase = .idle →
    ∃ t, exec i s = .next t ∧ (t.phase = .header ↔ i.wellFormed = true) ∧ (t.statusKind = 0 ↔ i.wellFormed = true)

/-- Leaving out an optional argument is giving its default (R83; the palette's two numbers are log 6). -/
def Obligations.DefaultsEqualExplicitArguments : Prop :=
  ∀ s : State, exec (.setPallet none none) s = exec (.setPallet (some 0) (some 3)) s ∧
    exec (.setEnFontSize none) s = exec (.setEnFontSize (some 1)) s ∧
    exec (.setZhFontSize none) s = exec (.setZhFontSize (some 1)) s ∧
    exec (.setStorageMode none) s = exec (.setStorageMode (some 0)) s ∧
    exec (.setCurrentDisplayRotation none) s = exec (.setCurrentDisplayRotation (some 0)) s

/-- An error does not stick: what an instruction does in IDLE does not depend on STATUS (R197). -/
def Obligations.EarlierStatusDoesNotMatter : Prop :=
  ∀ (i : Instr) (s : State) (x y : BitVec 5), s.phase = .idle →
    exec i { s with status := x } = exec i { s with status := y }

/-! ### Errors -/

/-- R193: an accept step that raises an error writes STATUS and nothing else, emits no byte, and consumes the command. -/
def Obligations.RejectedCommandWritesOnlyStatus : Prop :=
  ∀ (s : State) (c : Command) (e : CmdError), s.rst = false → s.phase = .idle → s.offered = some c →
    commandFrame c = .error e →
    ∃ t, step s = .next (t.tick true) ∧ Rejected s t (errorKind e) (errorField e) ∧ t.cmdReady = true ∧
      (t.tick true).env.received = s.env.received ∧ (t.tick true).env.producer = s.env.producer.tail

/-- R195: an unknown opcode first, then the variant's slots in order, then the length. -/
def Obligations.FirstErrorIsReported : Prop :=
  ∀ c : Command,
    (c.raw = false → c.op.toNat ∈ unassignedOps → commandFrame c = .error (.argument .opcode)) ∧
    (c.raw = false → c.op.toNat ∉ unassignedOps →
      (∀ k : Fin 6, k.val < slotsUsed c.op → (∀ j < k, slotFine c.op (slotOf c j).arg = true) →
        slotFine c.op (slotOf c k).arg = false → commandFrame c = .error (.argument (.slot k))) ∧
      ((∀ k : Fin 6, k.val < slotsUsed c.op → slotFine c.op (slotOf c k).arg = true) →
        ∃ op p, marshal c = .ok (op, p) ∧
          commandFrame c = if 65526 < p.length then .error .encoding else .ok (frameBytes op p)))

/-- R198: an error arises only in an accept step, only in IDLE, and leaves the block in IDLE; no step of a frame in flight but
reset touches STATUS. -/
def Obligations.ErrorsAriseOnlyInIdle : Prop :=
  ∀ s t : State, step s = .next t →
    (t.status ≠ s.status → t.statusKind ≠ 0 →
      s.phase = .idle ∧ t.phase = .idle ∧ ∃ c, s.action = .accept c) ∧
    (s.phase ≠ .idle → s.rst = false → t.status = s.status)

/-! ### The steps -/

/-- An accept step runs the decoded instruction: with a transaction offered in IDLE and no reset, the step is `exec` of the decoded
instruction, after which the environment drops the taken transaction and moves on (`tick`). -/
def Obligations.StepRunsTheDecodedInstruction : Prop :=
  ∀ (s : State) (c : Command) (i : Instr), s.rst = false → s.phase = .idle → s.offered = some c → decode c = .ok i →
    step s = thenNext (fun t => t.tick true) (exec i s)

/-- The state the host builds from an opcode-table word runs that word's instruction in its next step (log 3, log 10). -/
def Obligations.PlacedWordIsRunNext : Prop :=
  ∀ (s : State) (nbits w : Nat) (i : Instr), decodeTableWord nbits w = some i →
    step (s.withFetchWord nbits w) = thenNext (fun t => t.tick true) (exec i (s.withFetchWord nbits w))

/-- R30, R215: with no reset, an offered transaction is taken exactly where the framer is in IDLE; otherwise the producer
goes on holding it. -/
def Obligations.OfferIsTakenExactlyInIdle : Prop :=
  ∀ (s t : State) (c : Command), s.rst = false → s.offered = some c → step s = .next t →
    (s.cmdReady = true ↔ s.phase = .idle) ∧
    (s.cmdReady = true → t.env.producer = s.env.producer.tail) ∧
    (s.cmdReady = false → t.env.producer = s.env.producer ∧ t.op = s.op ∧ t.len = s.len ∧ t.plen = s.plen ∧
      t.pbuf = s.pbuf ∧ t.status = s.status)

/-- R38: who writes what, by the step taken (that an accept keeps PBUF from PLEN on: log 5). -/
def Obligations.WhoWritesWhat : Prop :=
  ∀ s t : State, step s = .next t →
    match s.action with
    | .reset => t.phase = .idle ∧ t.op = 0x00 ∧ t.len = 0x0000 ∧ t.plen = 0 ∧ t.idx = 0 ∧ t.chk = 0x00 ∧
        t.statusKind = 0 ∧ t.statusField = 0
    | .accept c => ∃ u, t = u.tick true ∧
        ((∃ op p, marshal c = .ok (op, p) ∧ p.length ≤ 65526 ∧ Accepted s u op p ∧
            ∀ k, p.length ≤ k → u.pbufByte k = s.pbufByte k) ∨
         (∃ e, commandFrame c = .error e ∧ Rejected s u (errorKind e) (errorField e)))
    | .emit => t.op = s.op ∧ t.len = s.len ∧ t.plen = s.plen ∧ t.pbuf = s.pbuf ∧ t.pbufGen = s.pbufGen ∧ t.status = s.status
    | .stall => t = s.tick false

/-- R33: the byte offered, in every legal state. -/
def Obligations.OfferedByteByPhase : Prop :=
  ∀ s : State, LegalState s → s.outData =
    match s.phase with
    | .header => some 0xA5
    | .lenHi => some (BitVec.ofNat 8 (s.len.toNat / 256))
    | .lenLo => some (BitVec.ofNat 8 (s.len.toNat % 256))
    | .opcode => some s.op
    | .payload => some (s.pbufByte s.idx.toNat)
    | .footer => [0xCC, 0x33, 0xC3, 0x3C][s.idx.toNat]?
    | .checksum => some s.chk
    | .idle => none

/-- R31: the output port, and that a byte moves exactly where it is offered and the sink is ready. Reset goes first (R210). -/
def Obligations.ByteMovesExactlyOnHandshake : Prop :=
  ∀ s : State, LegalState s →
    (s.outValid = true ↔ s.phase ≠ .idle) ∧ (s.outLast = true ↔ s.phase = .checksum) ∧
    (s.outValid = true ↔ ∃ b, s.outData = some b) ∧
    ∀ t, s.rst = false → step s = .next t →
      (s.outValid = true ∧ s.outReady = true →
        ∃ b, s.outData = some b ∧ t.env.received = s.env.received ++ [⟨b, s.outLast⟩]) ∧
      (¬ (s.outValid = true ∧ s.outReady = true) → t.env.received = s.env.received)

/-- R111: the emit step, and that CHK keeps its value in IDLE until the next accept that starts a frame. -/
def Obligations.EmitStepResult : Prop :=
  (∀ s : State, LegalState s → s.phase ≠ .idle → s.rst = false → s.outReady = true →
    ∃ b t, s.outData = some b ∧ step s = .next t ∧
      t.env.received = s.env.received ++ [⟨b, decide (s.phase = .checksum)⟩] ∧
      t.chk = (if s.phase = .checksum then s.chk else s.chk ^^^ b) ∧
      (match s.phase with
        | .idle => False
        | .header => t.phase = .lenHi ∧ t.idx = s.idx
        | .lenHi => t.phase = .lenLo ∧ t.idx = s.idx
        | .lenLo => t.phase = .opcode ∧ t.idx = s.idx
        | .opcode => t.idx = 0 ∧ t.phase = if s.plen.toNat = 0 then .footer else .payload
        | .payload => if s.idx.toNat + 1 = s.plen.toNat then t.idx = 0 ∧ t.phase = .footer
            else t.idx.toNat = s.idx.toNat + 1 ∧ t.phase = .payload
        | .footer => if s.idx.toNat = 3 then t.idx = 0 ∧ t.phase = .checksum
            else t.idx.toNat = s.idx.toNat + 1 ∧ t.phase = .footer
        | .checksum => t.phase = .idle ∧ t.idx = s.idx) ∧
      t.op = s.op ∧ t.len = s.len ∧ t.plen = s.plen ∧ t.pbuf = s.pbuf ∧ t.pbufGen = s.pbufGen ∧ t.status = s.status) ∧
  (∀ s t : State, s.phase = .idle → s.rst = false → step s = .next t → t.phase = .idle → t.chk = s.chk)

/-- R210: the reset step, from any state and whatever else is offered: every register at its reset value, no byte emitted, the
offered transaction not taken. PBUF is unspecified afterwards, so nothing is said of it here. -/
def Obligations.ResetStepResult : Prop :=
  ∀ s : State, s.rst = true →
    ∃ t, step s = .next t ∧ t.phase = .idle ∧ t.op = 0x00 ∧ t.len = 0x0000 ∧ t.plen = 0 ∧ t.idx = 0 ∧ t.chk = 0x00 ∧
      t.statusKind = 0 ∧ t.statusField = 0 ∧ t.env.received = s.env.received ∧
      ∀ c, s.offered = some c → t.env.producer = s.env.producer

/-- The entries of PBUF that an instruction does not write are kept (log 5: R110 writes `PBUF[0..PLEN)` and nothing else, while the
spec lets a model give the others any value, I1); and a reset leaves every entry at a new free value (log 4). -/
def Obligations.UnwrittenEntriesOfThePayloadBuffer : Prop :=
  (∀ (i : Instr) (s t : State) (k : Nat), exec i s = .next t → (t.phase = .header → t.plen.toNat ≤ k) →
    t.pbufByte k = s.pbufByte k ∧ t.pbufGen = s.pbufGen) ∧
  (∀ (s : State) (k : Nat), s.rst = true → ∃ t, step s = .next t ∧ t.pbufGen = s.pbufGen + 1 ∧
    t.pbufByte k = Config.pbufFree (s.pbufGen + 1) k)

/-- R37: the values after reset, and the outputs. -/
def Obligations.ResetStateValues : Prop :=
  State.reset.phase.code = 0 ∧ State.reset.op = 0x00 ∧ State.reset.len = 0x0000 ∧ State.reset.plen = 0 ∧
  State.reset.idx = 0 ∧ State.reset.chk = 0x00 ∧ State.reset.statusKind = 0 ∧ State.reset.statusField = 0 ∧
  State.reset.cmdReady = true ∧ State.reset.outValid = false ∧ State.reset.outLast = false ∧ State.reset.busy = false

/-- A reset during a frame abandons it: what has been sent of it is its first `position` bytes, a strict prefix, which ends the
stream; the block is idle and offers no byte; and what is still to come is the frames of the offers, nothing of the abandoned
one (R211). -/
def Obligations.ResetAbandonsTheFrame : Prop :=
  ∀ s : State, LegalState s → s.phase ≠ .idle → s.rst = true →
    s.position < s.frame.length ∧
    ∃ t earlier, step s = .next t ∧ s.stream = earlier ++ s.frame.take s.position ∧ t.stream = s.stream ∧
      t.phase = .idle ∧ t.outValid = false ∧ t.remaining = [] ∧
      t.stream ++ t.remaining ++ offeredFrames t.env.producer =
        earlier ++ s.frame.take s.position ++ offeredFrames s.env.producer

/-- R217: while the sink holds `out_ready = 0` and no reset comes, any number of steps leaves every register, the stream and the
held transaction as they were. -/
def Obligations.StalledSinkHoldsTheFrame : Prop :=
  ∀ (n : Nat) (s : State), s.phase ≠ .idle → s.env.rstLevels = [] →
    (∀ k < n, s.env.sink.getD k s.env.sinkRest = false) →
    ∃ t : State, Host.Core.run Sys2Proof.core n s = .next t ∧
      t.phase = s.phase ∧ t.op = s.op ∧ t.len = s.len ∧ t.plen = s.plen ∧ t.pbuf = s.pbuf ∧ t.pbufGen = s.pbufGen ∧
      t.idx = s.idx ∧ t.chk = s.chk ∧ t.status = s.status ∧ t.env.received = s.env.received ∧
      (∀ c, s.offered = some c → t.env.producer = s.env.producer)

/-- R216: no step of a frame in flight reads the command input: with other offers, the step is the same but for the offers. -/
def Obligations.OffersDoNotReachAFrameInFlight : Prop :=
  ∀ (s : State) (offers : List (Option Command)), s.phase ≠ .idle →
    thenNext (·.withOffers []) (step (s.withOffers offers)) = thenNext (·.withOffers []) (step s)

/-- No frame depends on an earlier command: two idle states that are offered the same transaction come to the same phase and
STATUS, and to the same frame (R105, R134). -/
def Obligations.FrameDependsOnTheCommandAlone : Prop :=
  ∀ (s s' t t' : State) (c : Command), s.phase = .idle → s'.phase = .idle → s.rst = false → s'.rst = false →
    s.offered = some c → s'.offered = some c → step s = .next t → step s' = .next t' →
    t.phase = t'.phase ∧ t.status = t'.status ∧
    (t.phase = .header → t.frame = t'.frame ∧ commandFrame c = .ok t.frame)

/-! ### The whole machine -/

/-- R35 is kept by every step, from every legal state. -/
def Obligations.LegalStateIsKept : Prop := ∀ s t : State, LegalState s → step s = .next t → LegalState t

/-- R35 holds at reset. -/
def Obligations.ResetIsLegal : Prop := LegalState State.reset

/-- PBUF keeps its canonical form, strictly rising indices below the capacity, at every step (log 4). -/
def Obligations.PayloadBufferStaysCanonical : Prop :=
  Memory.wf State.reset.pbuf = true ∧
  ∀ s t : State, Memory.wf s.pbuf = true → step s = .next t → Memory.wf t.pbuf = true

/-- R35: every state reached from reset, in any number of steps and under any environment, is legal. -/
def Obligations.ReachableStatesAreLegal : Prop :=
  ∀ (n : Nat) (env : Env) (t : State),
    Host.Core.run Sys2Proof.core n ({ State.reset with env := env } : State) = .next t → LegalState t

/-- In a legal state a step never stops: it neither faults nor is refused (R111, R190, R198). -/
def Obligations.LegalStateAlwaysSteps : Prop := ∀ s : State, LegalState s → ∃ t, step s = .next t

/-- Where a step stops at all: only an emit step whose IDX lies outside its section (log 7). -/
def Obligations.StepStopsOnlyOutsideASection : Prop :=
  ∀ s : State,
    (∀ r, step s ≠ .refused r) ∧
    ∀ r, step s = .fault r ↔ r = .sectionIndex s.phase ∧ s.rst = false ∧ s.outReady = true ∧
      ((s.phase = .payload ∧ 65526 ≤ s.idx.toNat) ∨ (s.phase = .footer ∧ 4 ≤ s.idx.toNat))

/-- R112: the fixed sequence of phases: each emit step from a frame's start finds the phase its place in the frame gives, and every
step of the machine follows one of the sequence's arrows or stays. -/
def Obligations.PhasesFollowTheFixedSequence : Prop :=
  (∀ (s : State) (k : Nat), LegalState s → s.phase = .header → k ≤ s.plen.toNat + 9 →
    ∃ t, emits k s = .next t ∧ t.phase = phaseAt s.plen.toNat k) ∧
  (∀ s t : State, LegalState s → step s = .next t → t.phase = s.phase ∨ (s.rst = true ∧ t.phase = .idle) ∨
    (s.phase, t.phase) ∈ [(Phase.idle, Phase.header), (.header, .lenHi), (.lenHi, .lenLo), (.lenLo, .opcode),
      (.opcode, .payload), (.opcode, .footer), (.payload, .footer), (.footer, .checksum), (.checksum, .idle)])

/-- R113: after an accept step that succeeds, the emit steps move exactly the frame, byte by byte, `out_last` on the last, and CHK
is the XOR of the bytes moved so far. -/
def Obligations.EmissionIsTheEncodedFrame : Prop :=
  ∀ (s : State) (c : Command) (op : Byte) (p f : List Byte), s.rst = false → s.phase = .idle → s.offered = some c →
    marshal c = .ok (op, p) → encodeFrame op p = .ok f →
    ∃ s1, step s = .next s1 ∧ ∀ k ≤ f.length, ∃ t, emits k s1 = .next t ∧
      t.env.received = s.env.received ++ (frameTransfers f).take k ∧
      (k < f.length → t.chk = xorFold (f.take k) ∧ t.phase ≠ .idle) ∧
      (k = f.length → t.phase = .idle)

/-- One accept step and LEN emit steps send a frame (R114): with the sink ready and no reset, that many steps of the machine lead
from IDLE to IDLE with exactly the frame added to the stream. -/
def Obligations.FrameTakesItsLengthInSteps : Prop :=
  ∀ (s : State) (c : Command) (f : List Byte), s.phase = .idle → s.env.rstLevels = [] → s.env.sink = [] →
    s.env.sinkRest = true → s.offered = some c → commandFrame c = .ok f →
    ∃ t : State, Host.Core.run Sys2Proof.core (f.length + 1) s = .next t ∧ t.phase = .idle ∧
      t.stream = s.stream ++ f ∧ t.statusKind = 0

/-- Every step but a reset keeps the stream whole: what has been sent, what is left of the frame in flight, and the frames of
the offers still to come, are together one sequence that no step changes (R58, R63, R193). -/
def Obligations.StepKeepsTheStream : Prop :=
  ∀ s t : State, LegalState s → s.rst = false → step s = .next t →
    t.stream ++ t.remaining ++ offeredFrames t.env.producer = s.stream ++ s.remaining ++ offeredFrames s.env.producer

/-- R58: with no reset, after any number of steps and whatever the sink does, the bytes the sink has received since an idle state
are a prefix of the frames of the offered commands, in accept order, rejected ones contributing nothing; and all of them
once the block is idle and nothing is left to offer. -/
def Obligations.StreamIsTheFramesInOrder : Prop :=
  ∀ (n : Nat) (s t : State), LegalState s → s.phase = .idle → s.env.rstLevels = [] →
    Host.Core.run Sys2Proof.core n s = .next t →
    t.stream <+: s.stream ++ offeredFrames s.env.producer ∧
    (t.phase = .idle → t.env.producer = [] → t.stream = s.stream ++ offeredFrames s.env.producer)
end

