-- ==== Sys2Proof/Laws/State.lean ====
section
/-!
SUPPORT. One lemma per field per update of the state: no later proof unfolds a record update.
-/

namespace Sys2Proof.Machine

variable (s : State)

/-! ### takeError -/

@[simp] theorem State.takeError_phase (e : CmdError) : (s.takeError e).phase = s.phase := rfl
@[simp] theorem State.takeError_op (e : CmdError) : (s.takeError e).op = s.op := rfl
@[simp] theorem State.takeError_len (e : CmdError) : (s.takeError e).len = s.len := rfl
@[simp] theorem State.takeError_plen (e : CmdError) : (s.takeError e).plen = s.plen := rfl
@[simp] theorem State.takeError_pbuf (e : CmdError) : (s.takeError e).pbuf = s.pbuf := rfl
@[simp] theorem State.takeError_pbufGen (e : CmdError) : (s.takeError e).pbufGen = s.pbufGen := rfl
@[simp] theorem State.takeError_idx (e : CmdError) : (s.takeError e).idx = s.idx := rfl
@[simp] theorem State.takeError_chk (e : CmdError) : (s.takeError e).chk = s.chk := rfl
@[simp] theorem State.takeError_status (e : CmdError) : (s.takeError e).status = errorStatus e := rfl
@[simp] theorem State.takeError_env (e : CmdError) : (s.takeError e).env = s.env := rfl

/-! ### latch -/

@[simp] theorem State.latch_phase (op : Byte) (p : List Byte) : (s.latch op p).phase = .header := rfl
@[simp] theorem State.latch_op (op : Byte) (p : List Byte) : (s.latch op p).op = op := rfl
@[simp] theorem State.latch_len (op : Byte) (p : List Byte) : (s.latch op p).len = BitVec.ofNat 16 (p.length + frameOverhead) := rfl
@[simp] theorem State.latch_plen (op : Byte) (p : List Byte) : (s.latch op p).plen = BitVec.ofNat 16 p.length := rfl
@[simp] theorem State.latch_pbuf (op : Byte) (p : List Byte) : (s.latch op p).pbuf = Memory.store p s.pbuf := rfl
@[simp] theorem State.latch_pbufGen (op : Byte) (p : List Byte) : (s.latch op p).pbufGen = s.pbufGen := rfl
@[simp] theorem State.latch_idx (op : Byte) (p : List Byte) : (s.latch op p).idx = 0 := rfl
@[simp] theorem State.latch_chk (op : Byte) (p : List Byte) : (s.latch op p).chk = 0x00 := rfl
@[simp] theorem State.latch_status (op : Byte) (p : List Byte) : (s.latch op p).status = statusOk := rfl
@[simp] theorem State.latch_env (op : Byte) (p : List Byte) : (s.latch op p).env = s.env := rfl

/-! ### resetStep -/

@[simp] theorem State.resetStep_phase : (s.resetStep).phase = .idle := rfl
@[simp] theorem State.resetStep_op : (s.resetStep).op = 0x00 := rfl
@[simp] theorem State.resetStep_len : (s.resetStep).len = 0x0000 := rfl
@[simp] theorem State.resetStep_plen : (s.resetStep).plen = 0 := rfl
@[simp] theorem State.resetStep_pbuf : (s.resetStep).pbuf = [] := rfl
@[simp] theorem State.resetStep_pbufGen : (s.resetStep).pbufGen = s.pbufGen + 1 := rfl
@[simp] theorem State.resetStep_idx : (s.resetStep).idx = 0 := rfl
@[simp] theorem State.resetStep_chk : (s.resetStep).chk = 0x00 := rfl
@[simp] theorem State.resetStep_status : (s.resetStep).status = statusOk := rfl
@[simp] theorem State.resetStep_env : (s.resetStep).env = s.env := rfl

/-! ### transfer -/

@[simp] theorem State.transfer_phase (b : Byte) : (s.transfer b).phase = s.phase := rfl
@[simp] theorem State.transfer_op (b : Byte) : (s.transfer b).op = s.op := rfl
@[simp] theorem State.transfer_len (b : Byte) : (s.transfer b).len = s.len := rfl
@[simp] theorem State.transfer_plen (b : Byte) : (s.transfer b).plen = s.plen := rfl
@[simp] theorem State.transfer_pbuf (b : Byte) : (s.transfer b).pbuf = s.pbuf := rfl
@[simp] theorem State.transfer_pbufGen (b : Byte) : (s.transfer b).pbufGen = s.pbufGen := rfl
@[simp] theorem State.transfer_idx (b : Byte) : (s.transfer b).idx = s.idx := rfl
@[simp] theorem State.transfer_chk (b : Byte) : (s.transfer b).chk = s.chk := rfl
@[simp] theorem State.transfer_status (b : Byte) : (s.transfer b).status = s.status := rfl
@[simp] theorem State.transfer_env (b : Byte) : (s.transfer b).env = { s.env with received := s.env.received ++ [⟨b, s.outLast⟩] } := rfl

/-! ### tick -/

@[simp] theorem State.tick_phase (taken : Bool) : (s.tick taken).phase = s.phase := rfl
@[simp] theorem State.tick_op (taken : Bool) : (s.tick taken).op = s.op := rfl
@[simp] theorem State.tick_len (taken : Bool) : (s.tick taken).len = s.len := rfl
@[simp] theorem State.tick_plen (taken : Bool) : (s.tick taken).plen = s.plen := rfl
@[simp] theorem State.tick_pbuf (taken : Bool) : (s.tick taken).pbuf = s.pbuf := rfl
@[simp] theorem State.tick_pbufGen (taken : Bool) : (s.tick taken).pbufGen = s.pbufGen := rfl
@[simp] theorem State.tick_idx (taken : Bool) : (s.tick taken).idx = s.idx := rfl
@[simp] theorem State.tick_chk (taken : Bool) : (s.tick taken).chk = s.chk := rfl
@[simp] theorem State.tick_status (taken : Bool) : (s.tick taken).status = s.status := rfl
@[simp] theorem State.tick_env (taken : Bool) : (s.tick taken).env = { s.env with producer := advanceProducer taken s.env.producer, sink := s.env.sink.tail, rstLevels := s.env.rstLevels.tail } := rfl

@[simp] theorem State.tick_received (taken : Bool) : (s.tick taken).env.received = s.env.received := rfl

/-! ### foldChk -/

@[simp] theorem State.foldChk_phase (b : Byte) : (s.foldChk b).phase = s.phase := by
  unfold State.foldChk; split <;> rfl
@[simp] theorem State.foldChk_op (b : Byte) : (s.foldChk b).op = s.op := by
  unfold State.foldChk; split <;> rfl
@[simp] theorem State.foldChk_len (b : Byte) : (s.foldChk b).len = s.len := by
  unfold State.foldChk; split <;> rfl
@[simp] theorem State.foldChk_plen (b : Byte) : (s.foldChk b).plen = s.plen := by
  unfold State.foldChk; split <;> rfl
@[simp] theorem State.foldChk_pbuf (b : Byte) : (s.foldChk b).pbuf = s.pbuf := by
  unfold State.foldChk; split <;> rfl
@[simp] theorem State.foldChk_pbufGen (b : Byte) : (s.foldChk b).pbufGen = s.pbufGen := by
  unfold State.foldChk; split <;> rfl
@[simp] theorem State.foldChk_idx (b : Byte) : (s.foldChk b).idx = s.idx := by
  unfold State.foldChk; split <;> rfl
@[simp] theorem State.foldChk_chk (b : Byte) : (s.foldChk b).chk = if s.phase = .checksum then s.chk else s.chk ^^^ b := by
  unfold State.foldChk; split <;> rfl
@[simp] theorem State.foldChk_status (b : Byte) : (s.foldChk b).status = s.status := by
  unfold State.foldChk; split <;> rfl
@[simp] theorem State.foldChk_env (b : Byte) : (s.foldChk b).env = s.env := by
  unfold State.foldChk; split <;> rfl

/-! ### sequence -/

@[simp] theorem State.sequence_op : (s.sequence).op = s.op := by
  unfold State.sequence; (repeat' split) <;> rfl
@[simp] theorem State.sequence_len : (s.sequence).len = s.len := by
  unfold State.sequence; (repeat' split) <;> rfl
@[simp] theorem State.sequence_plen : (s.sequence).plen = s.plen := by
  unfold State.sequence; (repeat' split) <;> rfl
@[simp] theorem State.sequence_pbuf : (s.sequence).pbuf = s.pbuf := by
  unfold State.sequence; (repeat' split) <;> rfl
@[simp] theorem State.sequence_pbufGen : (s.sequence).pbufGen = s.pbufGen := by
  unfold State.sequence; (repeat' split) <;> rfl
@[simp] theorem State.sequence_chk : (s.sequence).chk = s.chk := by
  unfold State.sequence; (repeat' split) <;> rfl
@[simp] theorem State.sequence_status : (s.sequence).status = s.status := by
  unfold State.sequence; (repeat' split) <;> rfl
@[simp] theorem State.sequence_env : (s.sequence).env = s.env := by
  unfold State.sequence; (repeat' split) <;> rfl

/-! ### presenting -/

@[simp] theorem State.presenting_phase (c : Command) : (s.presenting c).phase = .idle := rfl
@[simp] theorem State.presenting_op (c : Command) : (s.presenting c).op = s.op := rfl
@[simp] theorem State.presenting_len (c : Command) : (s.presenting c).len = s.len := rfl
@[simp] theorem State.presenting_plen (c : Command) : (s.presenting c).plen = s.plen := rfl
@[simp] theorem State.presenting_pbuf (c : Command) : (s.presenting c).pbuf = s.pbuf := rfl
@[simp] theorem State.presenting_pbufGen (c : Command) : (s.presenting c).pbufGen = s.pbufGen := rfl
@[simp] theorem State.presenting_idx (c : Command) : (s.presenting c).idx = 0 := rfl
@[simp] theorem State.presenting_chk (c : Command) : (s.presenting c).chk = s.chk := rfl
@[simp] theorem State.presenting_status (c : Command) : (s.presenting c).status = s.status := rfl

/-! ### afterEmit -/

@[simp] theorem State.afterEmit_op (b : Byte) : (s.afterEmit b).op = s.op := by
  simp [State.afterEmit]
@[simp] theorem State.afterEmit_len (b : Byte) : (s.afterEmit b).len = s.len := by
  simp [State.afterEmit]
@[simp] theorem State.afterEmit_plen (b : Byte) : (s.afterEmit b).plen = s.plen := by
  simp [State.afterEmit]
@[simp] theorem State.afterEmit_pbuf (b : Byte) : (s.afterEmit b).pbuf = s.pbuf := by
  simp [State.afterEmit]
@[simp] theorem State.afterEmit_pbufGen (b : Byte) : (s.afterEmit b).pbufGen = s.pbufGen := by
  simp [State.afterEmit]
@[simp] theorem State.afterEmit_status (b : Byte) : (s.afterEmit b).status = s.status := by
  simp [State.afterEmit]

theorem State.afterEmit_chk (b : Byte) :
    (s.afterEmit b).chk = if s.phase = .checksum then s.chk else s.chk ^^^ b := by
  rw [State.afterEmit, State.sequence_chk, State.foldChk_chk]
  split <;> rename_i h <;> rw [State.transfer_phase] at h <;> simp [h]

/-- The sequencer reads PHASE, IDX and PLEN only. -/
theorem State.afterEmit_phase (b : Byte) : (s.afterEmit b).phase = s.sequence.phase := by
  have h : ∀ t : State, t.phase = s.phase → t.idx = s.idx → t.plen = s.plen → t.sequence.phase = s.sequence.phase := by
    intro t h1 h2 h3
    unfold State.sequence
    rw [h1, h2, h3]
    split <;> (try split) <;> simp_all
  exact h _ (by simp) (by simp) (by simp)

theorem State.afterEmit_idx (b : Byte) : (s.afterEmit b).idx = s.sequence.idx := by
  have h : ∀ t : State, t.phase = s.phase → t.idx = s.idx → t.plen = s.plen → t.sequence.idx = s.sequence.idx := by
    intro t h1 h2 h3
    unfold State.sequence
    rw [h1, h2, h3]
    split <;> (try split) <;> simp_all
  exact h _ (by simp) (by simp) (by simp)

theorem State.afterEmit_env (b : Byte) :
    (s.afterEmit b).env = { s.env with received := s.env.received ++ [⟨b, s.outLast⟩] } := by
  simp [State.afterEmit]

/-! ### What depends on part of the state only -/

@[simp] theorem State.tick_pbufByte (taken : Bool) (i : Nat) : (s.tick taken).pbufByte i = s.pbufByte i := rfl
@[simp] theorem State.transfer_pbufByte (b : Byte) (i : Nat) : (s.transfer b).pbufByte i = s.pbufByte i := rfl
@[simp] theorem State.takeError_pbufByte (e : CmdError) (i : Nat) : (s.takeError e).pbufByte i = s.pbufByte i := rfl
@[simp] theorem State.foldChk_pbufByte (b : Byte) (i : Nat) : (s.foldChk b).pbufByte i = s.pbufByte i := by
  simp [State.pbufByte]
@[simp] theorem State.sequence_pbufByte (i : Nat) : s.sequence.pbufByte i = s.pbufByte i := by
  simp [State.pbufByte]
@[simp] theorem State.afterEmit_pbufByte (b : Byte) (i : Nat) : (s.afterEmit b).pbufByte i = s.pbufByte i := by
  simp [State.pbufByte]

end Sys2Proof.Machine
end

