-- ==== Sys2Proof/Laws/Memory.lean ====
section
/-!
SUPPORT. The payload buffer: what a store leaves to be read, and that every operation keeps the canonical form.
-/

namespace Sys2Proof.Machine

/-! ### Reading after a store -/

theorem Memory.find_cellsFrom (p : List Byte) (m : List Host.Cell) (k i : Nat) (hk : k ≤ i) :
    Memory.find (Memory.cellsFrom k p ++ m) i =
      if h : i - k < p.length then some p[i - k] else Memory.find m i := by
  induction p generalizing k with
  | nil => simp [Memory.cellsFrom]
  | cons b rest ih =>
    rw [Memory.cellsFrom, List.cons_append, Memory.find]
    by_cases hki : k = i
    · subst hki; simp
    · obtain ⟨d, rfl⟩ : ∃ d, i = k + 1 + d := ⟨i - k - 1, by omega⟩
      rw [if_neg hki, ih (k + 1) (by omega)]
      have h1 : k + 1 + d - k = d + 1 := by omega
      simp [h1]

theorem Memory.find_filter (m : List Host.Cell) (n i : Nat) (hi : n ≤ i) :
    Memory.find (m.filter fun cell => decide (n ≤ cell.1)) i = Memory.find m i := by
  induction m with
  | nil => rfl
  | cons cell rest ih =>
    obtain ⟨a, b⟩ := cell
    rw [List.filter_cons]
    split
    · simp [Memory.find, ih]
    · rename_i h
      have : a ≠ i := by simp at h; omega
      simp [Memory.find, ih, this]

/-- A store is read back below its length (R51). -/
theorem Memory.find_store_of_lt (p : List Byte) (m : List Host.Cell) (i : Nat) (h : i < p.length) :
    Memory.find (Memory.store p m) i = some p[i] := by
  rw [Memory.store, Memory.find_cellsFrom _ _ _ _ (Nat.zero_le i)]
  simp [h]

/-- A store leaves the entries from its length on alone (R38). -/
theorem Memory.find_store_of_ge (p : List Byte) (m : List Host.Cell) (i : Nat) (h : p.length ≤ i) :
    Memory.find (Memory.store p m) i = Memory.find m i := by
  rw [Memory.store, Memory.find_cellsFrom _ _ _ _ (Nat.zero_le i), dif_neg (by omega),
    Memory.find_filter _ _ _ h]

theorem State.latch_pbufByte_of_lt (s : State) (op : Byte) (p : List Byte) (i : Nat) (h : i < p.length) :
    (s.latch op p).pbufByte i = p[i] := by
  simp [State.pbufByte, Memory.find_store_of_lt _ _ _ h]

theorem State.latch_pbufByte_of_ge (s : State) (op : Byte) (p : List Byte) (i : Nat) (h : p.length ≤ i) :
    (s.latch op p).pbufByte i = s.pbufByte i := by
  simp [State.pbufByte, Memory.find_store_of_ge _ _ _ h]

/-! ### The canonical form -/

theorem Memory.wfFrom_mono {lo lo' : Nat} {m : List Host.Cell} (h : Memory.wfFrom lo m = true) (hlo : lo' ≤ lo) :
    Memory.wfFrom lo' m = true := by
  cases m with
  | nil => rfl
  | cons cell rest =>
    simp only [Memory.wfFrom, Bool.and_eq_true, decide_eq_true_eq] at h ⊢
    exact ⟨⟨by omega, h.1.2⟩, h.2⟩

theorem Memory.wfFrom_filter_ge {lo n : Nat} {m : List Host.Cell} (h : Memory.wfFrom lo m = true) :
    Memory.wfFrom (max lo n) (m.filter fun cell => decide (n ≤ cell.1)) = true := by
  induction m generalizing lo with
  | nil => rfl
  | cons cell rest ih =>
    obtain ⟨a, b⟩ := cell
    simp only [Memory.wfFrom, Bool.and_eq_true, decide_eq_true_eq] at h
    have ihr := ih h.2
    rw [List.filter_cons]
    split
    · rename_i hn
      simp only [decide_eq_true_eq] at hn
      simp only [Memory.wfFrom, Bool.and_eq_true, decide_eq_true_eq]
      exact ⟨⟨by omega, h.1.2⟩, Memory.wfFrom_mono ihr (by omega)⟩
    · exact Memory.wfFrom_mono ihr (by omega)

theorem Memory.wfFrom_cellsFrom {p : List Byte} {m : List Host.Cell} {lo : Nat} (hp : lo + p.length ≤ pbufCapacity)
    (hm : Memory.wfFrom (lo + p.length) m = true) : Memory.wfFrom lo (Memory.cellsFrom lo p ++ m) = true := by
  induction p generalizing lo with
  | nil => simpa [Memory.cellsFrom] using hm
  | cons b rest ih =>
    simp only [List.length_cons] at hp hm
    have := ih (lo := lo + 1) (by omega) (Memory.wfFrom_mono hm (by omega))
    simp [Memory.cellsFrom, Memory.wfFrom, this]
    omega

/-- Storing a payload that fits keeps the canonical form. -/
theorem Memory.wf_store {p : List Byte} {m : List Host.Cell} (hp : p.length ≤ maxPayload) (hm : Memory.wf m = true) :
    Memory.wf (Memory.store p m) = true := by
  refine Memory.wfFrom_cellsFrom (lo := 0) (by simp [maxPayload, pbufCapacity] at *; omega) ?_
  exact Memory.wfFrom_mono (Memory.wfFrom_filter_ge (n := p.length) hm) (by omega)

/-- The reset state's buffer is in canonical form. -/
theorem Memory.wf_reset : Memory.wf State.reset.pbuf = true := rfl

end Sys2Proof.Machine
end

