-- ==== Sys2Proof/Laws/Frame.lean ====
section
/-!
SUPPORT. The frame function and the frame in flight: lengths, the running XOR, and that the byte offered in each phase is the
frame's byte at the position the sequencer has reached.
-/

namespace Sys2Proof.Machine

/-! ### The running XOR -/

theorem foldl_xor (init : Byte) (l : List Byte) : l.foldl (· ^^^ ·) init = init ^^^ xorFold l := by
  induction l generalizing init with
  | nil => simp [xorFold]
  | cons b rest ih =>
    rw [xorFold, List.foldl_cons, List.foldl_cons, ih, ih (0x00 ^^^ b)]
    simp [BitVec.xor_assoc]

@[simp] theorem xorFold_nil : xorFold [] = 0x00 := rfl

@[simp] theorem xorFold_append (a b : List Byte) : xorFold (a ++ b) = xorFold a ^^^ xorFold b := by
  rw [xorFold, List.foldl_append, foldl_xor]
  rfl

@[simp] theorem xorFold_singleton (b : Byte) : xorFold [b] = b := by simp [xorFold]

theorem xorFold_cons (b : Byte) (l : List Byte) : xorFold (b :: l) = b ^^^ xorFold l := by
  rw [← List.singleton_append, xorFold_append, xorFold_singleton]

/-! ### Lengths and numbers -/

@[simp] theorem be16_length (v : Int) : (be16 v).length = 2 := rfl

/-- The bytes of `be16`, by division (R9). -/
theorem be16_eq (v : Int) : be16 v = [BitVec.ofInt 8 (v / 256), BitVec.ofInt 8 v] := by
  have hi : (BitVec.ofInt 16 v).extractLsb' 8 8 = BitVec.ofInt 8 (v / 256) := by
    apply BitVec.eq_of_toNat_eq
    simp only [BitVec.extractLsb'_toNat, BitVec.toNat_ofInt, Nat.shiftRight_eq_div_pow]
    omega
  have lo : (BitVec.ofInt 16 v).extractLsb' 0 8 = BitVec.ofInt 8 v := by
    apply BitVec.eq_of_toNat_eq
    simp only [BitVec.extractLsb'_toNat, BitVec.toNat_ofInt, Nat.shiftRight_eq_div_pow]
    omega
  rw [be16, hi, lo]

/-- The bytes of `be32`, by division (R9). -/
theorem be32_eq (v : Int) : be32 v =
    [BitVec.ofInt 8 (v / 16777216), BitVec.ofInt 8 (v / 65536), BitVec.ofInt 8 (v / 256), BitVec.ofInt 8 v] := by
  have part (k : Nat) (hk : k ≤ 24) : (BitVec.ofInt 32 v).extractLsb' k 8 = BitVec.ofInt 8 (v / 2 ^ k) := by
    apply BitVec.eq_of_toNat_eq
    simp only [BitVec.extractLsb'_toNat, BitVec.toNat_ofInt, Nat.shiftRight_eq_div_pow]
    interval_cases k <;> omega
  rw [be32, part 24 (by omega), part 16 (by omega), part 8 (by omega), part 0 (by omega)]
  norm_num

/-- LENGTH in two bytes (R101). -/
theorem be16_natCast (n : Nat) : be16 (n : Int) = [BitVec.ofNat 8 (n / 256), BitVec.ofNat 8 n] := by
  rw [be16_eq]
  have : ((n : Int) / 256) = ((n / 256 : Nat) : Int) := by omega
  rw [this, BitVec.ofInt_natCast, BitVec.ofInt_natCast]

@[simp] theorem frameBody_length (op : Byte) (p : List Byte) : (frameBody op p).length = p.length + 8 := by
  simp [frameBody, footer]
  omega

@[simp] theorem frameBytes_length (op : Byte) (p : List Byte) : (frameBytes op p).length = p.length + 9 := by
  simp [frameBytes]

theorem encodeFrame_of_le {op : Byte} {p : List Byte} (h : p.length ≤ maxPayload) :
    encodeFrame op p = .ok (frameBytes op p) := by
  simp [encodeFrame, Nat.not_lt.mpr h]

theorem encodeFrame_of_gt {op : Byte} {p : List Byte} (h : maxPayload < p.length) :
    encodeFrame op p = .error .encoding := by
  simp [encodeFrame, h]

end Sys2Proof.Machine
end

