-- ==== Sys2Proof/Laws/Accept.lean ====
section
/-!
SUPPORT. The accept step: every meaning is one accept of its marshalled command, and what an accept can do.
-/

namespace Sys2Proof.Machine

/-- Every arm of `exec` is the accept step on its instruction's marshalled command. -/
theorem exec_eq_accept (i : Instr) (s : State) : exec i s = .next (s.accept (marshalInstr i)) := by
  cases i <;> rfl

theorem cmdReady_iff (s : State) : s.cmdReady = true ↔ s.phase = .idle := by simp [State.cmdReady]

theorem accept_of_busy {s : State} (h : s.phase ≠ .idle) (r : Marshalled) : s.accept r = s := by
  simp [State.accept, State.cmdReady, h]

theorem accept_error {s : State} (h : s.phase = .idle) (e : CmdError) :
    s.accept (.error e) = s.takeError e := by
  simp [State.accept, State.cmdReady, h]

theorem accept_ok {s : State} (h : s.phase = .idle) (op : Byte) {p : List Byte} (hp : p.length ≤ maxPayload) :
    s.accept (.ok (op, p)) = s.latch op p := by
  simp [State.accept, State.cmdReady, h, encodeFrame_of_le hp]

theorem accept_long {s : State} (h : s.phase = .idle) (op : Byte) {p : List Byte} (hp : maxPayload < p.length) :
    s.accept (.ok (op, p)) = s.takeError .encoding := by
  simp [State.accept, State.cmdReady, h, encodeFrame_of_gt hp]

/-- Everything an accept in IDLE can do: report an error, or latch a payload that fits. -/
theorem accept_cases {s : State} (h : s.phase = .idle) (r : Marshalled) :
    (∃ e, r.bind (fun q => encodeFrame q.1 q.2) = .error e ∧ s.accept r = s.takeError e) ∨
    (∃ op p, r = .ok (op, p) ∧ p.length ≤ maxPayload ∧
      r.bind (fun q => encodeFrame q.1 q.2) = .ok (frameBytes op p) ∧ s.accept r = s.latch op p) := by
  match r with
  | .error e => exact .inl ⟨e, rfl, accept_error h e⟩
  | .ok (op, p) =>
    rcases Nat.lt_or_ge maxPayload p.length with hp | hp
    · exact .inl ⟨.encoding, encodeFrame_of_gt hp, accept_long h op hp⟩
    · exact .inr ⟨op, p, rfl, hp, encodeFrame_of_le hp, accept_ok h op hp⟩

/-! ### What the two outcomes leave -/

theorem latch_accepted (s : State) (op : Byte) {p : List Byte} (hp : p.length ≤ maxPayload) :
    Accepted s (s.latch op p) op p where
  phase := rfl
  op := rfl
  len := by simp [frameOverhead, maxPayload] at *; omega
  plen := by simp [maxPayload] at *; omega
  written i b hb := by
    obtain ⟨hi, rfl⟩ := List.getElem?_eq_some_iff.mp hb
    exact State.latch_pbufByte_of_lt s op p i hi
  idx := rfl
  chk := rfl
  kind := (by decide : kindOf statusOk = 0)
  field := (by decide : fieldOf statusOk = 0)
  env := rfl

@[simp] theorem kindOf_packStatus (kind : BitVec 2) (field : BitVec 3) : kindOf (packStatus kind field) = kind := by
  revert kind field; decide

@[simp] theorem fieldOf_packStatus (kind : BitVec 2) (field : BitVec 3) : fieldOf (packStatus kind field) = field := by
  revert kind field; decide

theorem kindOf_errorStatus (e : CmdError) : kindOf (errorStatus e) = errorKind e := by
  cases e <;> simp [errorStatus, errorKind, kindArgument, kindEncoding]

theorem fieldOf_errorStatus (e : CmdError) : fieldOf (errorStatus e) = errorField e := by
  rcases e with (⟨k⟩ | _) | _ <;> simp [errorStatus, errorField, fieldCode]

theorem takeError_rejected (s : State) (e : CmdError) : Rejected s (s.takeError e) (errorKind e) (errorField e) where
  kind := kindOf_errorStatus e
  field := fieldOf_errorStatus e
  phase := rfl
  op := rfl
  len := rfl
  plen := rfl
  pbuf := rfl
  gen := rfl
  idx := rfl
  chk := rfl
  env := rfl

theorem legalStatus_errorStatus (e : CmdError) : legalStatus (errorStatus e) = true := by
  rcases e with (k | _) | _
  · revert k; decide
  · decide
  · decide

/-! ### An instruction in IDLE, by what it marshals to -/

theorem exec_accepted {i : Instr} {s : State} {op : Byte} {p : List Byte} (h : s.phase = .idle)
    (hm : marshalInstr i = .ok (op, p)) (hp : p.length ≤ 65526) :
    ∃ t, exec i s = .next t ∧ Accepted s t op p :=
  ⟨s.latch op p, by rw [exec_eq_accept, hm, accept_ok h op hp], latch_accepted s op hp⟩

theorem exec_rejected {i : Instr} {s : State} {e : CmdError} (h : s.phase = .idle) (hm : marshalInstr i = .error e) :
    ∃ t, exec i s = .next t ∧ Rejected s t (errorKind e) (errorField e) :=
  ⟨s.takeError e, by rw [exec_eq_accept, hm, accept_error h], takeError_rejected s e⟩

theorem exec_too_long {i : Instr} {s : State} {op : Byte} {p : List Byte} (h : s.phase = .idle)
    (hm : marshalInstr i = .ok (op, p)) (hp : 65526 < p.length) :
    ∃ t, exec i s = .next t ∧ Rejected s t 2 0 :=
  ⟨s.takeError .encoding, by rw [exec_eq_accept, hm, accept_long h op hp], takeError_rejected s .encoding⟩

/-! ### Arguments (R131) -/

theorem arg_absent_required (k : Fin 6) (legal : LegalSet) : arg k legal none none = .error (.argument (.slot k)) := rfl

theorem arg_absent_default (k : Fin 6) (legal : LegalSet) (d : Int) : arg k legal (some d) none = .ok d := rfl

theorem arg_present (k : Fin 6) (legal : LegalSet) (d : Option Int) (v : Int) :
    arg k legal d (some v) = bif legal.admits v then .ok v else .error (.argument (.slot k)) := by
  cases d <;> rfl

/-- A required argument is read where it is supplied and legal. -/
theorem arg_required_ok {k : Fin 6} {legal : LegalSet} {v : Int} (h : legal.admits v = true) :
    arg k legal none (some v) = .ok v := by simp [arg_present, h]

/-- A coordinate in range is read (R131, R191). -/
theorem arg_coordinate_ok {k : Fin 6} {v : Int} (h : inU16 (some v)) : arg k u16 none (some v) = .ok v := by
  obtain ⟨w, hw, h0, h1⟩ := h
  cases hw
  refine arg_required_ok ?_
  simp only [u16, LegalSet.admits, Bool.and_eq_true, decide_eq_true_eq]
  omega

/-- A coordinate that is absent or out of range is an error that names its slot (R131, R191). -/
theorem arg_coordinate_error {k : Fin 6} {a : Option Int} (h : ¬ inU16 a) :
    arg k u16 none a = .error (.argument (.slot k)) := by
  cases a with
  | none => rfl
  | some v =>
    have : u16.admits v = false := by
      rw [Bool.eq_false_iff]
      intro hv
      simp only [u16, LegalSet.admits, Bool.and_eq_true, decide_eq_true_eq] at hv
      exact h ⟨v, rfl, by omega, by omega⟩
    simp [arg_present, this]

end Sys2Proof.Machine
end

