-- ==== Sys2Proof/Laws/Decode.lean ====
section
/-!
SUPPORT. Decoding: what it reads of a transaction.
-/

namespace Sys2Proof.Machine

@[simp] theorem Slot.ofArg_arg (a : Option Int) : (Slot.ofArg a).arg = a := by cases a <;> rfl

/-- Which instruction is decoded, its arguments apart, depends on the selector only. -/
theorem decode_mnemonic_congr {c d : Command} (hr : c.raw = d.raw) (ho : c.op = d.op) :
    (decode c).map Instr.mnemonic = (decode d).map Instr.mnemonic := by
  unfold decode
  rw [← hr, ← ho]
  split
  · rfl
  · split <;> rfl

theorem decode_raw {c : Command} (h : c.raw = true) : decode c = .ok (.raw c.op c.bytes) := by
  simp [decode, h]

/-- Decoding fails with the one error only (R79). -/
theorem decode_error {c : Command} {e : CmdError} (h : decode c = .error e) : e = .argument .opcode := by
  unfold decode at h
  split at h
  · cases h
  · split at h <;> cases h
    rfl

end Sys2Proof.Machine
end

