-- ==== Sys2Proof/Laws/Emit.lean ====
section
/-!
SUPPORT. The emit step: in a legal state the byte offered is the frame's byte at the position the sequencer has reached, and an
emit step moves that position on by one.
-/

namespace Sys2Proof.Machine

@[simp] theorem payloadBytes_length (s : State) : s.payloadBytes.length = s.plen.toNat := by
  simp [State.payloadBytes]

@[simp] theorem frame_length (s : State) : s.frame.length = s.plen.toNat + 9 := by simp [State.frame]

/-- The frame is a function of OP, PLEN and the bytes of PBUF below PLEN. -/
theorem frame_congr {s t : State} (hop : t.op = s.op) (hplen : t.plen = s.plen)
    (hpbuf : ∀ i, t.pbufByte i = s.pbufByte i) : t.frame = s.frame := by
  have : t.pbufByte = s.pbufByte := funext hpbuf
  simp [State.frame, State.payloadBytes, hop, hplen, this]

@[simp] theorem tick_frame (s : State) (taken : Bool) : (s.tick taken).frame = s.frame := rfl
@[simp] theorem tick_position (s : State) (taken : Bool) : (s.tick taken).position = s.position := rfl
@[simp] theorem tick_stream (s : State) (taken : Bool) : (s.tick taken).stream = s.stream := rfl

/-- What an accept latches is the payload itself. -/
theorem latch_payloadBytes (s : State) (op : Byte) {p : List Byte} (hp : p.length ≤ maxPayload) :
    (s.latch op p).payloadBytes = p := by
  have hlen : (s.latch op p).plen.toNat = p.length := (latch_accepted s op hp).plen
  refine List.ext_getElem (by rw [payloadBytes_length, hlen]) fun i h1 h2 => ?_
  simp [State.payloadBytes, State.latch_pbufByte_of_lt s op p i h2]

theorem latch_frame (s : State) (op : Byte) {p : List Byte} (hp : p.length ≤ maxPayload) :
    (s.latch op p).frame = frameBytes op p := by
  simp [State.frame, latch_payloadBytes s op hp]

/-- The frame, byte by byte. -/
theorem frame_eq (s : State) : s.frame =
    header :: BitVec.ofNat 8 ((s.plen.toNat + 9) / 256) :: BitVec.ofNat 8 (s.plen.toNat + 9) :: s.op ::
      (s.payloadBytes ++ (footer ++ [xorFold (frameBody s.op s.payloadBytes)])) := by
  have hlen := be16_natCast (s.payloadBytes.length + frameOverhead)
  rw [payloadBytes_length] at hlen
  simp only [State.frame, frameBytes, frameBody, payloadBytes_length, hlen]
  simp [frameOverhead]

/-- The byte on offer is the frame's byte at the position reached (R113). -/
theorem outData_eq {s : State} (h : LegalState s) (hb : s.phase ≠ .idle) : s.outData = s.frame[s.position]? := by
  have hlen := h.len_eq hb
  cases hph : s.phase with
  | idle => exact absurd hph hb
  | header => simp [State.outData, State.position, hph, frame_eq]
  | lenHi =>
    simp only [State.outData, State.position, hph, frame_eq]
    simp only [List.getElem?_cons_succ, List.getElem?_cons_zero, Option.some.injEq]
    apply BitVec.eq_of_toNat_eq
    simp only [BitVec.extractLsb'_toNat, BitVec.toNat_ofNat, Nat.shiftRight_eq_div_pow]
    omega
  | lenLo =>
    simp only [State.outData, State.position, hph, frame_eq]
    simp only [List.getElem?_cons_succ, List.getElem?_cons_zero, Option.some.injEq]
    apply BitVec.eq_of_toNat_eq
    simp only [BitVec.extractLsb'_toNat, BitVec.toNat_ofNat, Nat.shiftRight_eq_div_pow]
    omega
  | opcode => simp [State.outData, State.position, hph, frame_eq]
  | payload =>
    have hi := (h.payload_idx hph).2
    have hcap := h.plen_le
    have hp : 4 + s.idx.toNat = s.idx.toNat + 1 + 1 + 1 + 1 := by omega
    simp only [State.outData, State.position, hph, frame_eq, hp, List.getElem?_cons_succ]
    rw [List.getElem?_append_left (by simpa using hi)]
    have hc : s.idx.toNat < pbufCapacity := by simp only [pbufCapacity]; omega
    simp [State.pbufRead, hc, State.payloadBytes, hi]
  | footer =>
    have hi := h.footer_idx hph
    have hp : 4 + s.plen.toNat + s.idx.toNat = (s.plen.toNat + s.idx.toNat) + 1 + 1 + 1 + 1 := by omega
    simp only [State.outData, State.position, hph, frame_eq, hp, List.getElem?_cons_succ]
    rw [List.getElem?_append_right (by simp), List.getElem?_append_left (by simp [footer]; omega)]
    simp
  | checksum =>
    obtain ⟨earlier, emitted, -, hem, hchk⟩ := h.chk_eq hb
    have htake : emitted = frameBody s.op s.payloadBytes := by
      rw [hem, State.frame, frameBytes, List.take_append_of_le_length] <;>
        simp [State.position, hph, Nat.add_comm]
    have hp : s.position = (frameBody s.op s.payloadBytes).length := by simp [State.position, hph]; omega
    rw [hp, State.frame, frameBytes, List.getElem?_append_right (by simp)]
    simp [State.outData, hph, hchk, htake]

/-- In a legal state with a frame in flight, the position lies inside the frame. -/
theorem position_lt {s : State} (h : LegalState s) : s.position < s.frame.length := by
  rw [frame_length]
  cases hph : s.phase <;> simp only [State.position, hph] <;> try omega
  · have := (h.payload_idx hph).2; omega
  · have := h.footer_idx hph; omega

/-- In a legal state with a frame in flight, a byte is on offer. -/
theorem outData_isSome {s : State} (h : LegalState s) (hb : s.phase ≠ .idle) :
    ∃ b, s.outData = some b ∧ s.frame[s.position]? = some b := by
  have hp := position_lt h
  exact ⟨s.frame[s.position], by rw [outData_eq h hb]; simp, by simp⟩

/-- The sequencer moves the position on by one, and leaves for IDLE after the last byte (R112). -/
theorem sequence_position {s : State} (h : LegalState s) (hb : s.phase ≠ .idle) :
    (s.phase = .checksum ∧ s.sequence.phase = .idle ∧ s.position + 1 = s.frame.length) ∨
    (s.phase ≠ .checksum ∧ s.sequence.phase ≠ .idle ∧ s.sequence.position = s.position + 1) := by
  have hcap := h.plen_le
  have hplen : s.plen = 0 ↔ s.plen.toNat = 0 := by
    constructor
    · intro e; simp [e]
    · intro e; exact BitVec.eq_of_toNat_eq (by simpa using e)
  cases hph : s.phase with
  | idle => exact absurd hph hb
  | header => simp [State.sequence, State.position, hph]
  | lenHi => simp [State.sequence, State.position, hph]
  | lenLo => simp [State.sequence, State.position, hph]
  | opcode =>
    refine .inr ⟨by simp, ?_, ?_⟩ <;> simp only [State.sequence, hph] <;> split <;> simp_all [State.position]
  | payload =>
    have hi := (h.payload_idx hph).2
    refine .inr ⟨by simp, ?_, ?_⟩
    · simp only [State.sequence, hph]; split <;> simp
    · simp only [State.sequence, hph]
      split
      · simp [State.position, hph]; omega
      · have : (s.idx + 1).toNat = s.idx.toNat + 1 := by
          rw [BitVec.toNat_add]; simp; omega
        simp [State.position, hph]; omega
  | footer =>
    have hi := h.footer_idx hph
    have h3 : s.idx = 3 ↔ s.idx.toNat = 3 := by
      constructor
      · intro e; simp [e]
      · intro e; exact BitVec.eq_of_toNat_eq (by simpa using e)
    refine .inr ⟨by simp, ?_, ?_⟩
    · simp only [State.sequence, hph]; split <;> simp
    · simp only [State.sequence, hph]
      split
      · rename_i e
        have := h3.mp e
        simp [State.position, hph]; omega
      · have : (s.idx + 1).toNat = s.idx.toNat + 1 := by
          rw [BitVec.toNat_add]; simp; omega
        simp [State.position, hph]; omega
  | checksum => exact .inl ⟨by simp, by simp [State.sequence, hph], by simp [State.position, hph]; omega⟩

/-- The position after an emit step. -/
theorem afterEmit_position (s : State) (b : Byte) : (s.afterEmit b).position = s.sequence.position := by
  unfold State.position
  rw [State.afterEmit_phase, State.afterEmit_idx, State.afterEmit_plen, State.sequence_plen]

@[simp] theorem afterEmit_frame (s : State) (b : Byte) : (s.afterEmit b).frame = s.frame :=
  frame_congr (by simp) (by simp) (by simp)

theorem afterEmit_stream (s : State) (b : Byte) : (s.afterEmit b).stream = s.stream ++ [b] := by
  simp [State.stream, State.afterEmit_env]

/-- What an emit step does in a legal state (R111): it never fails, and it moves the byte at the position reached. -/
theorem emit_of_legal {s : State} (h : LegalState s) (hb : s.phase ≠ .idle) :
    ∃ b, s.frame[s.position]? = some b ∧ s.outData = some b ∧ s.emit = .next (s.afterEmit b) := by
  obtain ⟨b, ho, hf⟩ := outData_isSome h hb
  exact ⟨b, hf, ho, by simp [State.emit, ho]⟩

end Sys2Proof.Machine
end

