-- ==== Sys2Proof/Laws/PerInstr.lean ====
section
/-!
SUPPORT. A statement for all instructions, made per instruction: the selector of an instruction's transaction is taken by its
own row of the opcode table and by no other (R72, R74).
-/

namespace Sys2Proof.Laws.SelectorInTable

/-- The rows of the opcode table that take the instruction's selector are exactly its own. -/
def Statement (i : Instr) : Prop :=
  (opcodeTable.filter (·.takes (encode i).sel)).map (·.mnemonic) = [i.mnemonic]

/-- For a catalog instruction it is enough to look at the opcode and the mnemonic, which do not depend on the arguments. -/
theorem of_opcode {i : Instr} (op : Byte) (name : String) (hr : (encode i).raw = false) (ho : (encode i).op = op)
    (hn : i.mnemonic = name) (h : (opcodeTable.filter (·.takes (BitVec.ofBool false ++ op))).map (·.mnemonic) = [name]) :
    Statement i := by
  rw [Statement, Command.sel, hr, ho, hn, h]

theorem handshake : Statement .handshake := by unfold Statement; decide
theorem setBaudrate (rate : Option Int) : Statement (.setBaudrate rate) :=
  of_opcode 0x01 "SetBaudrate" rfl rfl rfl (by decide)
theorem readBaudrate : Statement .readBaudrate := by unfold Statement; decide
theorem readStorageMode : Statement .readStorageMode := by unfold Statement; decide
theorem setStorageMode (mode : Option Int) : Statement (.setStorageMode mode) :=
  of_opcode 0x07 "SetStorageMode" rfl rfl rfl (by decide)
theorem sleepMode : Statement .sleepMode := by unfold Statement; decide
theorem refreshAndUpdate : Statement .refreshAndUpdate := by unfold Statement; decide
theorem currentDisplayRotation : Statement .currentDisplayRotation := by unfold Statement; decide
theorem setCurrentDisplayRotation (rotation : Option Int) : Statement (.setCurrentDisplayRotation rotation) :=
  of_opcode 0x0D "SetCurrentDisplayRotation" rfl rfl rfl (by decide)
theorem importFontLibrary : Statement .importFontLibrary := by unfold Statement; decide
theorem importImage : Statement .importImage := by unfold Statement; decide
theorem setPallet (foreground background : Option Int) : Statement (.setPallet foreground background) :=
  of_opcode 0x10 "SetPallet" rfl rfl rfl (by decide)
theorem getPallet : Statement .getPallet := by unfold Statement; decide
theorem setEnFontSize (size : Option Int) : Statement (.setEnFontSize size) :=
  of_opcode 0x1E "SetEnFontSize" rfl rfl rfl (by decide)
theorem setZhFontSize (size : Option Int) : Statement (.setZhFontSize size) :=
  of_opcode 0x1F "SetZhFontSize" rfl rfl rfl (by decide)
theorem displayText (x y : Option Int) (text : List Byte) : Statement (.displayText x y text) :=
  of_opcode 0x30 "DisplayText" rfl rfl rfl (by decide)
theorem drawCircle (x y radius : Option Int) : Statement (.drawCircle x y radius) :=
  of_opcode 0x26 "DrawCircle" rfl rfl rfl (by decide)
theorem fillCircle (x y radius : Option Int) : Statement (.fillCircle x y radius) :=
  of_opcode 0x27 "FillCircle" rfl rfl rfl (by decide)
theorem drawTriangle (x1 y1 x2 y2 x3 y3 : Option Int) : Statement (.drawTriangle x1 y1 x2 y2 x3 y3) :=
  of_opcode 0x28 "DrawTriangle" rfl rfl rfl (by decide)
theorem fillTriangle (x1 y1 x2 y2 x3 y3 : Option Int) : Statement (.fillTriangle x1 y1 x2 y2 x3 y3) :=
  of_opcode 0x29 "FillTriangle" rfl rfl rfl (by decide)
theorem clearScreen : Statement .clearScreen := by unfold Statement; decide
theorem displayImage (x y : Option Int) (filename : List Byte) : Statement (.displayImage x y filename) :=
  of_opcode 0x70 "DisplayImage" rfl rfl rfl (by decide)
theorem raw (op : Byte) (payload : List Byte) : Statement (.raw op payload) := by
  have h : ∀ b : Byte, (opcodeTable.filter (·.takes (BitVec.ofBool true ++ b))).map (·.mnemonic) = ["RAW"] := by decide
  exact h op

end Sys2Proof.Laws.SelectorInTable
end

