-- ==== Sys2Proof/Laws/Step.lean ====
section
/-!
SUPPORT. One step: what it is in each case of the input levels, and everything it can be.
-/

namespace Sys2Proof.Machine

/-! ### The step, case by case -/

theorem step_of_reset {s : State} (h : s.rst = true) : step s = .next (s.resetStep.tick false) := by
  simp [step, State.action, h]

/-- An accept step in IDLE runs `marshal` and the frame check (R110), whatever the selector. -/
theorem step_of_offer {s : State} {c : Command} (hr : s.rst = false) (hi : s.phase = .idle)
    (ho : s.offered = some c) : step s = .next ((s.accept (marshal c)).tick true) := by
  have ha : s.action = .accept c := by simp [State.action, State.cmdReady, hr, hi, ho]
  simp only [step, ha]
  cases hd : decode c with
  | error e => rw [marshal, hd]; simp [Except.bind, accept_error hi]
  | ok i => rw [marshal, hd]; simp [Except.bind, exec_eq_accept, thenNext]

theorem step_of_rejected {s : State} {c : Command} {e : CmdError} (hr : s.rst = false) (hi : s.phase = .idle)
    (ho : s.offered = some c) (hf : commandFrame c = .error e) : step s = .next ((s.takeError e).tick true) := by
  rw [step_of_offer hr hi ho]
  rcases accept_cases hi (marshal c) with ⟨e', he, ha⟩ | ⟨op, p, -, -, he, -⟩
  · rw [commandFrame, he] at hf
    cases hf
    rw [ha]
  · rw [commandFrame, he] at hf
    cases hf

theorem step_of_accepted {s : State} {c : Command} {op : Byte} {p : List Byte} (hr : s.rst = false)
    (hi : s.phase = .idle) (ho : s.offered = some c) (hm : marshal c = .ok (op, p)) (hp : p.length ≤ maxPayload) :
    step s = .next ((s.latch op p).tick true) := by
  rw [step_of_offer hr hi ho, hm, accept_ok hi op hp]

theorem step_of_no_offer {s : State} (hr : s.rst = false) (hi : s.phase = .idle) (ho : s.offered = none) :
    step s = .next (s.tick false) := by
  simp [step, State.action, State.cmdReady, hr, hi, ho]

theorem step_of_not_ready {s : State} (hr : s.rst = false) (hb : s.phase ≠ .idle) (ho : s.outReady = false) :
    step s = .next (s.tick false) := by
  simp [step, State.action, State.cmdReady, hr, hb, ho]

theorem step_of_ready {s : State} (hr : s.rst = false) (hb : s.phase ≠ .idle) (ho : s.outReady = true) :
    step s = thenNext (fun t => t.tick false) s.emit := by
  simp [step, State.action, State.cmdReady, hr, hb, ho]

/-! ### Runs of the host's machine -/

theorem host_run_succ (M : Host.Core) (n : Nat) (s : M.State) : M.run (n + 1) s =
    match M.step s with
    | .next t => M.run n t
    | .fault r => .fault r
    | .refused r => .refused r := rfl

/-- The host's machine steps by `step`. -/
theorem run_succ (n : Nat) (s : State) : (Host.Core.run core (n + 1) s : Host.Outcome State Fault Refusal) =
    match step s with
    | .next t => Host.Core.run core n t
    | .fault r => .fault r
    | .refused r => .refused r := by
  refine (host_run_succ core n s).trans ?_
  cases h : step s with
  | next t =>
    have : core.step s = .next t := h
    rw [this]
  | fault r =>
    have : core.step s = .fault r := h
    rw [this]
  | refused r =>
    have : core.step s = .refused r := h
    rw [this]

/-! ### Everything a step can be -/

theorem step_cases {s t : State} (h : step s = .next t) :
    (s.rst = true ∧ t = s.resetStep.tick false) ∨
    (s.rst = false ∧ s.phase = .idle ∧ ∃ c, s.offered = some c ∧
      ((∃ e, commandFrame c = .error e ∧ t = (s.takeError e).tick true) ∨
       (∃ op p, marshal c = .ok (op, p) ∧ p.length ≤ maxPayload ∧ commandFrame c = .ok (frameBytes op p) ∧
          t = (s.latch op p).tick true))) ∨
    (s.rst = false ∧ s.phase ≠ .idle ∧ s.outReady = true ∧ ∃ b, s.outData = some b ∧
      t = (s.afterEmit b).tick false) ∨
    (s.rst = false ∧ ((s.phase = .idle ∧ s.offered = none) ∨ (s.phase ≠ .idle ∧ s.outReady = false)) ∧
      t = s.tick false) := by
  rcases hr : s.rst with _ | _
  · by_cases hi : s.phase = .idle
    · rcases ho : s.offered with _ | c
      · rw [step_of_no_offer hr hi ho] at h
        cases h
        exact .inr (.inr (.inr ⟨rfl, .inl ⟨hi, rfl⟩, rfl⟩))
      · rw [step_of_offer hr hi ho] at h
        cases h
        refine .inr (.inl ⟨rfl, hi, c, rfl, ?_⟩)
        rcases accept_cases hi (marshal c) with ⟨e, he, ha⟩ | ⟨op, p, hm, hp, he, ha⟩
        · exact .inl ⟨e, he, by rw [ha]⟩
        · exact .inr ⟨op, p, hm, hp, he, by rw [ha]⟩
    · rcases ho : s.outReady with _ | _
      · rw [step_of_not_ready hr hi ho] at h
        cases h
        exact .inr (.inr (.inr ⟨rfl, .inr ⟨hi, rfl⟩, rfl⟩))
      · rw [step_of_ready hr hi ho] at h
        refine .inr (.inr (.inl ⟨rfl, hi, rfl, ?_⟩))
        rcases hd : s.outData with _ | b
        · simp [State.emit, hd, hi, thenNext] at h
        · simp only [State.emit, hd, thenNext] at h
          cases h
          exact ⟨b, rfl, rfl⟩
  · rw [step_of_reset hr] at h
    cases h
    exact .inl ⟨rfl, rfl⟩

end Sys2Proof.Machine
end

