-- ==== Sys2Proof/Tests/Slice0.lean ====
section
/-!
SUPPORT. Tests of the model against the spec's worked examples and vectors (95_test_vectors, and the examples of the rules), and
for every statement with hypotheses a witness: a concrete state and operands that meet all of them together.
-/

namespace Sys2Proof.Tests

open Sys2Proof Sys2Proof.Machine

/-! ### Helpers -/

/-- The reset state, with the given transactions offered in turn. -/
def offering (cs : List Command) : State := State.reset.withOffers (cs.map some)

/-- The rendering of the frame that a written command asks for (R82, R90); nothing where it is an error. -/
def frameOf (text : String) : Option String :=
  match (readCommand text).map commandFrame with
  | some (.ok f) => some (describe f)
  | _ => none

/-- KIND and FIELD after the accept step of a written command, from reset. -/
def statusOf (text : String) : Option (BitVec 2 × BitVec 3) :=
  match (readCommand text).map fun c => step (offering [c]) with
  | some (.next t) => some (t.statusKind, t.statusField)
  | _ => none

/-- `SetPallet(1, 2)` in flight (T-S): the state with this PHASE, IDX and CHK, these bytes sent, and a Handshake offered. -/
def flight (phase : Phase) (idx : BitVec 16) (chk : Byte) (sent : List Byte) : State where
  phase := phase
  op := 0x10
  len := 0x000B
  plen := 2
  pbuf := [(0, 0x01), (1, 0x02)]
  pbufGen := 0
  idx := idx
  chk := chk
  status := 0
  env := { producer := [some (encode .handshake)], sink := [], sinkRest := true, rstLevels := [],
           received := sent.map fun b => ⟨b, false⟩ }

/-- PHASE, IDX and CHK after one emit step. -/
def emitted (s : State) : Option (Phase × BitVec 16 × Byte) :=
  match s.emit with
  | .next t => some (t.phase, t.idx, t.chk)
  | _ => none

/-- The same state with `rst` asserted in the coming step. -/
def resetting (s : State) : State := { s with env := { s.env with rstLevels := [true] } }

/-- The same state with a sink that never becomes ready. -/
def stalled (s : State) : State := { s with env := { s.env with sinkRest := false } }

/-! ### Well-formedness: an ill-formed term for each check (R6, R75, R102) -/

theorem test_wellFormed_rate : (Instr.setBaudrate none).wellFormed = false ∧ (Instr.setBaudrate (some (-1))).wellFormed = false ∧
    (Instr.setBaudrate (some 4294967296)).wellFormed = false ∧ (Instr.setBaudrate (some 4294967295)).wellFormed = true := by decide

theorem test_wellFormed_settings : (Instr.setStorageMode (some 2)).wellFormed = false ∧
    (Instr.setStorageMode (some (-1))).wellFormed = false ∧ (Instr.setCurrentDisplayRotation (some 3)).wellFormed = false ∧
    (Instr.setCurrentDisplayRotation (some (-1))).wellFormed = false ∧ (Instr.setEnFontSize (some 0)).wellFormed = false ∧
    (Instr.setEnFontSize (some 4)).wellFormed = false ∧ (Instr.setZhFontSize (some 0)).wellFormed = false ∧
    (Instr.setZhFontSize (some 48)).wellFormed = false := by decide

theorem test_wellFormed_palette : (Instr.setPallet (some 4) none).wellFormed = false ∧
    (Instr.setPallet (some (-1)) none).wellFormed = false ∧ (Instr.setPallet none (some 4)).wellFormed = false ∧
    (Instr.setPallet none none).wellFormed = true := by decide

theorem test_wellFormed_circle : (Instr.drawCircle none (some 0) (some 0)).wellFormed = false ∧
    (Instr.drawCircle (some 0) (some (-1)) (some 0)).wellFormed = false ∧
    (Instr.drawCircle (some 0) (some 0) (some 65536)).wellFormed = false ∧
    (Instr.fillCircle (some 65536) (some 0) (some 0)).wellFormed = false ∧
    (Instr.fillCircle (some 0) none (some 0)).wellFormed = false ∧
    (Instr.fillCircle (some 0) (some 0) none).wellFormed = false := by decide

theorem test_wellFormed_drawTriangle :
    (Instr.drawTriangle none (some 0) (some 0) (some 0) (some 0) (some 0)).wellFormed = false ∧
    (Instr.drawTriangle (some 0) none (some 0) (some 0) (some 0) (some 0)).wellFormed = false ∧
    (Instr.drawTriangle (some 0) (some 0) (some (-1)) (some 0) (some 0) (some 0)).wellFormed = false ∧
    (Instr.drawTriangle (some 0) (some 0) (some 0) (some 65536) (some 0) (some 0)).wellFormed = false ∧
    (Instr.drawTriangle (some 0) (some 0) (some 0) (some 0) none (some 0)).wellFormed = false ∧
    (Instr.drawTriangle (some 0) (some 0) (some 0) (some 0) (some 0) none).wellFormed = false := by decide

theorem test_wellFormed_fillTriangle :
    (Instr.fillTriangle (some 65536) (some 0) (some 0) (some 0) (some 0) (some 0)).wellFormed = false ∧
    (Instr.fillTriangle (some 0) (some 65536) (some 0) (some 0) (some 0) (some 0)).wellFormed = false ∧
    (Instr.fillTriangle (some 0) (some 0) none (some 0) (some 0) (some 0)).wellFormed = false ∧
    (Instr.fillTriangle (some 0) (some 0) (some 0) none (some 0) (some 0)).wellFormed = false ∧
    (Instr.fillTriangle (some 0) (some 0) (some 0) (some 0) (some (-1)) (some 0)).wellFormed = false ∧
    (Instr.fillTriangle (some 0) (some 0) (some 0) (some 0) (some 0) (some 65536)).wellFormed = false := by decide

theorem test_wellFormed_text : (Instr.displayText none (some 0) []).wellFormed = false ∧
    (Instr.displayText (some 0) (some 65536) []).wellFormed = false ∧
    (Instr.displayImage (some (-1)) (some 0) []).wellFormed = false ∧
    (Instr.displayImage (some 0) none []).wellFormed = false := by decide

theorem test_wellFormed_length (b : Byte) :
    (Instr.displayText (some 0) (some 0) (List.replicate 65522 b)).wellFormed = false ∧
    (Instr.displayText (some 0) (some 0) (List.replicate 65521 b)).wellFormed = true ∧
    (Instr.displayImage (some 0) (some 0) (List.replicate 65522 b)).wellFormed = false ∧
    (Instr.raw 0x00 (List.replicate 65527 b)).wellFormed = false ∧
    (Instr.raw 0x00 (List.replicate 65526 b)).wellFormed = true := by
  simp only [Instr.wellFormed, List.length_replicate]
  decide

/-! ### Decoding: transactions written out from R72 and R74, the unused slots filled with what R135 says is ignored -/

theorem test_decode_noArgument :
    (([0x00, 0x02, 0x06, 0x08, 0x0A, 0x0C, 0x0E, 0x0F, 0x11, 0x2E] : List Byte).map fun op =>
      decode ⟨false, op, ⟨true, 99⟩, ⟨true, -1⟩, ⟨false, 0⟩, ⟨false, 0⟩, ⟨false, 0⟩, ⟨false, 0⟩, [0x01]⟩) =
    [.ok .handshake, .ok .readBaudrate, .ok .readStorageMode, .ok .sleepMode, .ok .refreshAndUpdate, .ok .currentDisplayRotation,
      .ok .importFontLibrary, .ok .importImage, .ok .getPallet, .ok .clearScreen] := by decide

theorem test_decode_setBaudrate :
    decode ⟨false, 0b00000001, ⟨true, 9600⟩, ⟨true, 7⟩, ⟨false, 0⟩, ⟨false, 0⟩, ⟨false, 0⟩, ⟨false, 0⟩, []⟩ =
      .ok (.setBaudrate (some 9600)) := by decide

theorem test_decode_setting :
    (([0x07, 0x0D, 0x1E, 0x1F] : List Byte).map fun op =>
      decode ⟨false, op, ⟨true, 1⟩, ⟨true, -7⟩, ⟨false, 0⟩, ⟨false, 0⟩, ⟨false, 0⟩, ⟨false, 0⟩, [0xFF]⟩) =
    [.ok (.setStorageMode (some 1)), .ok (.setCurrentDisplayRotation (some 1)), .ok (.setEnFontSize (some 1)),
      .ok (.setZhFontSize (some 1))] := by decide

theorem test_decode_setPallet :
    decode ⟨false, 0b00010000, ⟨true, 1⟩, ⟨true, 2⟩, ⟨true, 3⟩, ⟨false, 0⟩, ⟨false, 0⟩, ⟨false, 0⟩, []⟩ =
      .ok (.setPallet (some 1) (some 2)) ∧
    decode ⟨false, 0b00010000, ⟨false, 1⟩, ⟨true, 2⟩, ⟨true, 3⟩, ⟨false, 0⟩, ⟨false, 0⟩, ⟨false, 0⟩, []⟩ =
      .ok (.setPallet none (some 2)) := by decide

theorem test_decode_text :
    (([0x30, 0x70] : List Byte).map fun op =>
      decode ⟨false, op, ⟨true, 1⟩, ⟨true, 2⟩, ⟨true, 3⟩, ⟨false, 0⟩, ⟨false, 0⟩, ⟨false, 0⟩, [0x41, 0x00]⟩) =
    [.ok (.displayText (some 1) (some 2) [0x41, 0x00]), .ok (.displayImage (some 1) (some 2) [0x41, 0x00])] := by decide

theorem test_decode_shape :
    (([0x26, 0x27, 0x28, 0x29] : List Byte).map fun op =>
      decode ⟨false, op, ⟨true, 1⟩, ⟨true, 2⟩, ⟨true, 3⟩, ⟨true, 4⟩, ⟨true, 5⟩, ⟨true, 6⟩, [0x41]⟩) =
    [.ok (.drawCircle (some 1) (some 2) (some 3)), .ok (.fillCircle (some 1) (some 2) (some 3)),
      .ok (.drawTriangle (some 1) (some 2) (some 3) (some 4) (some 5) (some 6)),
      .ok (.fillTriangle (some 1) (some 2) (some 3) (some 4) (some 5) (some 6))] := by decide

theorem test_decode_raw :
    decode ⟨true, 0x10, ⟨true, 1⟩, ⟨true, 2⟩, ⟨false, 0⟩, ⟨false, 0⟩, ⟨false, 0⟩, ⟨false, 0⟩, [0x09]⟩ = .ok (.raw 0x10 [0x09]) := by
  decide

/-- T-E: an unknown opcode is an error, and the opcode is checked before the slots. -/
theorem test_decode_unassigned :
    decode ⟨false, 0x03, ⟨false, 0⟩, ⟨false, 0⟩, ⟨false, 0⟩, ⟨false, 0⟩, ⟨false, 0⟩, ⟨false, 0⟩, []⟩ =
      .error (.argument .opcode) ∧
    decode ⟨false, 0xFF, ⟨true, -1⟩, ⟨false, 0⟩, ⟨false, 0⟩, ⟨false, 0⟩, ⟨false, 0⟩, ⟨false, 0⟩, []⟩ =
      .error (.argument .opcode) := by decide

/-- The table's words for a few selectors (opcode_table.json `match`). -/
theorem test_decodeTableWord :
    decodeTableWord 16 0x070 = some (.displayImage none none []) ∧ decodeTableWord 16 0x11E = some (.raw 0x1E []) ∧
    decodeTableWord 16 0x02F = none := by decide

/-! ### Frames: vectors V1 to V6 and T-F, T-C0 to T-C6 (95_test_vectors) -/

theorem test_frame_raw : frameOf "RAW(0x00, <A5>)" = some "A5 00 0A 00 A5 CC 33 C3 3C 0A" ∧
    frameOf "RAW(0xFF, <FF>)" = some "A5 00 0A FF FF CC 33 C3 3C AF" ∧
    frameOf "RAW(0x55, <CC 33 C3 3C>)" = some "A5 00 0D 55 CC 33 C3 3C CC 33 C3 3C FD" := by decide

/-- T-F: LENGTH crosses a byte boundary. -/
theorem test_frame_raw_256 : (encodeFrame 0x42 (List.replicate 256 0x5A)).toOption.map (fun f => (f.take 5, f.drop 260)) =
    some ([0xA5, 0x01, 0x09, 0x42, 0x5A], [0xCC, 0x33, 0xC3, 0x3C, 0xEF]) := by decide +kernel

theorem test_frame_noArgument : frameOf "SleepMode()" = some "A5 00 09 08 CC 33 C3 3C A4" ∧
    frameOf "GetPallet()" = some "A5 00 09 11 CC 33 C3 3C BD" := by decide

theorem test_frame_setBaudrate : frameOf "SetBaudrate(115200)" = some "A5 00 0D 01 00 01 C2 00 CC 33 C3 3C 6A" ∧
    frameOf "SetBaudrate(4294967295)" = some "A5 00 0D 01 FF FF FF FF CC 33 C3 3C A9" := by decide

theorem test_frame_setStorageMode : frameOf "SetStorageMode(1)" = some "A5 00 0A 07 01 CC 33 C3 3C A9" ∧
    frameOf "SetStorageMode()" = some "A5 00 0A 07 00 CC 33 C3 3C A8" := by decide

theorem test_frame_setRotation : frameOf "SetCurrentDisplayRotation(2)" = some "A5 00 0A 0D 02 CC 33 C3 3C A0" ∧
    frameOf "SetCurrentDisplayRotation()" = some "A5 00 0A 0D 00 CC 33 C3 3C A2" := by decide

theorem test_frame_setEnFontSize : frameOf "SetEnFontSize()" = some "A5 00 0A 1E 01 CC 33 C3 3C B0" ∧
    frameOf "SetEnFontSize(3)" = some "A5 00 0A 1E 03 CC 33 C3 3C B2" := by decide

theorem test_frame_setZhFontSize : frameOf "SetZhFontSize()" = some "A5 00 0A 1F 01 CC 33 C3 3C B1" ∧
    frameOf "SetZhFontSize(3)" = some "A5 00 0A 1F 03 CC 33 C3 3C B3" := by decide

theorem test_frame_setPallet : frameOf "SetPallet(3, 0)" = some "A5 00 0B 10 03 00 CC 33 C3 3C BD" ∧
    frameOf "SetPallet(background=1)" = some "A5 00 0B 10 00 01 CC 33 C3 3C BF" ∧
    frameOf "SetPallet(foreground=2)" = some "A5 00 0B 10 02 03 CC 33 C3 3C BF" := by decide

theorem test_frame_circle : frameOf "FillCircle(0x0100, 0x0200, 0x0010)" = some "A5 00 0F 27 01 00 02 00 00 10 CC 33 C3 3C 9E" ∧
    frameOf "DrawCircle(65535, 65535, 65535)" = some "A5 00 0F 26 FF FF FF FF FF FF CC 33 C3 3C 8C" := by decide

theorem test_frame_triangle : frameOf "FillTriangle(0xFFFF, 0, 0, 0xFFFF, 0x1234, 0x5678)" =
      some "A5 00 15 29 FF FF 00 00 00 00 FF FF 12 34 56 78 CC 33 C3 3C 91" ∧
    frameOf "DrawTriangle(0, 0, 0, 0, 0, 0)" = some "A5 00 15 28 00 00 00 00 00 00 00 00 00 00 00 00 CC 33 C3 3C 98" := by decide

theorem test_frame_displayText : frameOf "DisplayText(65535, 65535, \"A\")" = some "A5 00 0F 30 FF FF FF FF 41 00 CC 33 C3 3C DB" ∧
    frameOf "DisplayText(1, 2, <41 00 42>)" = some "A5 00 11 30 00 01 00 02 41 00 42 00 CC 33 C3 3C 84" := by decide

theorem test_frame_displayImage : frameOf "DisplayImage(10, 20, <>)" = some "A5 00 0E 70 00 0A 00 14 00 CC 33 C3 3C C5" ∧
    frameOf "DisplayImage(0, 0, \"PIC4.BMP\")" = some "A5 00 16 70 00 00 00 00 50 49 43 34 2E 42 4D 50 00 CC 33 C3 3C DC" := by
  decide

/-! ### Errors: the STATUS of T-C1 to T-C6 and T-E -/

theorem test_status_setBaudrate : statusOf "SetBaudrate(4294967296)" = some (1, 1) ∧ statusOf "SetBaudrate()" = some (1, 1) := by
  decide

theorem test_status_settings : statusOf "SetStorageMode(2)" = some (1, 1) ∧
    statusOf "SetCurrentDisplayRotation(3)" = some (1, 1) ∧ statusOf "SetEnFontSize(32)" = some (1, 1) ∧
    statusOf "SetZhFontSize(48)" = some (1, 1) ∧ statusOf "SetEnFontSize(2)" = some (0, 0) := by decide

theorem test_status_setPallet : statusOf "SetPallet(4, 4)" = some (1, 1) ∧ statusOf "SetPallet(0, 4)" = some (1, 2) ∧
    statusOf "SetPallet(-1, 0)" = some (1, 1) := by decide

theorem test_status_circle : statusOf "DrawCircle(-5, 0, 70000)" = some (1, 1) ∧ statusOf "DrawCircle(0, 0, 65536)" = some (1, 3) ∧
    statusOf "DrawCircle(1, 2)" = some (1, 3) ∧ statusOf "FillCircle(0, 0, 65536)" = some (1, 3) := by decide

theorem test_status_triangle : statusOf "DrawTriangle(1, 2, 3, 4, 5, 65536)" = some (1, 6) ∧
    statusOf "FillTriangle(1, 2, 3, 4, 5)" = some (1, 6) := by decide

theorem test_status_text : statusOf "DisplayText(65536, 0, \"A\")" = some (1, 1) ∧
    statusOf "DisplayText(0, -1, \"A\")" = some (1, 2) ∧ statusOf "DisplayText(y=5, text=\"A\")" = some (1, 1) ∧
    statusOf "DisplayImage(0, 65536, \"X\")" = some (1, 2) := by decide

/-- T-F, T-C6: one byte over the bound; and an argument error comes before it. -/
theorem test_status_length_of (bytes : List Byte) (h : bytes.length = 65522) :
    commandFrame (encode (.raw 0x00 (bytes ++ [0, 0, 0, 0, 0]))) = .error .encoding ∧
    commandFrame (encode (.displayText (some 0) (some 0) bytes)) = .error .encoding ∧
    commandFrame (encode (.displayText (some (-1)) (some 0) bytes)) = .error (.argument (.slot 0)) := by
  refine ⟨?_, ?_, rfl⟩
  · show encodeFrame 0x00 (bytes ++ [0, 0, 0, 0, 0]) = _
    exact encodeFrame_of_gt (by rw [List.length_append, h]; decide)
  · show encodeFrame 0x30 (be16 0 ++ be16 0 ++ bytes ++ [0x00]) = _
    exact encodeFrame_of_gt (by rw [List.length_append, List.length_append, h]; decide)

theorem test_status_length :
    commandFrame (encode (.displayText (some 0) (some 0) (List.replicate 65522 0x41))) = .error .encoding :=
  (test_status_length_of _ List.length_replicate).2.1

/-! ### Steps: the rows of T-S and T-R, and R110's example -/

/-- R110: `accept(SetBaudrate(9600))` from reset. -/
theorem test_accept_setBaudrate :
    (match exec (.setBaudrate (some 9600)) State.reset with
      | .next t => decide (t.phase = .header ∧ t.op = 0x01 ∧ t.plen = 4 ∧ t.payloadBytes = [0x00, 0x00, 0x25, 0x80] ∧
          t.len = 0x000D ∧ t.chk = 0x00 ∧ t.status = 0)
      | _ => false) = true := by decide

/-- T-S: rows 3 to 8 of the SetPallet trace. -/
theorem test_emit_setPallet :
    emitted (flight .lenLo 0 0xA5 []) = some (.opcode, 0, 0xAE) ∧ emitted (flight .opcode 0 0xAE []) = some (.payload, 0, 0xBE) ∧
    emitted (flight .payload 0 0xBE []) = some (.payload, 1, 0xBF) ∧
    emitted (flight .payload 1 0xBF []) = some (.footer, 0, 0xBD) ∧
    emitted (flight .footer 0 0xBD []) = some (.footer, 1, 0x71) ∧ emitted (flight .footer 1 0x71 []) = some (.footer, 2, 0x42) := by
  decide

/-- T-S: rows 10 and 11 of the SetPallet trace; row 4 of the Handshake trace, which has no payload. -/
theorem test_emit_frame_end :
    emitted (flight .footer 3 0x81 []) = some (.checksum, 0, 0xBD) ∧ emitted (flight .checksum 0 0xBD []) = some (.idle, 0, 0xBD) ∧
    (flight .checksum 0 0xBD []).outLast = true ∧
    emitted { flight .opcode 0 0xAC [] with op := 0x00, plen := 0 } = some (.footer, 0, 0xAC) := by decide

/-- T-R: the reset step from a frame in flight. -/
theorem test_reset_step :
    (match step (resetting (flight .payload 1 0xBF [])) with
      | .next t => decide (t.phase = .idle ∧ t.op = 0x00 ∧ t.len = 0x0000 ∧ t.plen = 0 ∧ t.idx = 0 ∧ t.chk = 0x00 ∧
          t.status = 0 ∧ t.cmdReady = true ∧ t.outValid = false)
      | _ => false) = true := by decide

/-- Program 2, step 4: the rejected command leaves what step 3 set. -/
theorem test_rejected_keeps :
    (match exec (.drawCircle (some 1) (some 2) (some 70000)) (flight .idle 0 0x12 []) with
      | .next t => decide (t.op = 0x10 ∧ t.len = 0x000B ∧ t.plen = 2 ∧ t.chk = 0x12 ∧ t.statusKind = 1 ∧ t.statusField = 3)
      | _ => false) = true := by decide

/-! ### Host-side functions (R71, R82, R90, R91) -/

/-- Log 15: a byte sequence may stand at any place; a slot supplied twice reads as nothing. -/
theorem test_readCommand_places : readCommand "DisplayText(<41>, 1, 2)" = readCommand "DisplayText(1, 2, <41>)" ∧
    readCommand "SetPallet(foreground=1, 2)" = none := by decide

/-- A digit reads as the number it renders (R90), in either case (R91); the neighbours of the digits read as nothing. -/
theorem test_hexValue : (∀ d : BitVec 4, hexValue (hexDigit d) = some d.toNat) ∧ hexValue 'c' = some 12 ∧
    hexValue 'G' = none ∧ hexValue '@' = none ∧ hexValue ':' = none := by decide

/-- T-D. -/
theorem test_describe : describe [] = "" ∧ describe [0x0A] = "0A" ∧ describe [0xA5, 0x00, 0xFF] = "A5 00 FF" ∧
    sameRendering (describe [0xA5, 0x00, 0xFF]) "a5 00 ff" = true := by decide

/-- Program 1, steps 1 and 3: a reader finds the two frames. -/
theorem test_readFrames :
    readFrames 3 [0xA5, 0x00, 0x09, 0x00, 0xCC, 0x33, 0xC3, 0x3C, 0xAC, 0xA5, 0x00, 0x09, 0x2E, 0xCC, 0x33, 0xC3, 0x3C, 0x82] =
      [[0xA5, 0x00, 0x09, 0x00, 0xCC, 0x33, 0xC3, 0x3C, 0xAC], [0xA5, 0x00, 0x09, 0x2E, 0xCC, 0x33, 0xC3, 0x3C, 0x82]] := by
  decide

/-- Program 3: after a reset in mid-frame, a reader that goes by LENGTH waits for bytes that never come (R211). -/
theorem test_reader_after_reset :
    nextFrame [0xA5, 0x00, 0x15, 0x28, 0x00, 0x0A, 0x00, 0xA5, 0x00, 0x09, 0x00, 0xCC, 0x33, 0xC3, 0x3C, 0xAC] = none := by decide

/-! ### Witnesses: the hypotheses of the statements can be met

The states are those of T-S and T-R; the bytes sent are the spec's. -/

/-- The frame of `Handshake()` (V1). -/
def handshakeFrame : List Byte := [0xA5, 0x00, 0x09, 0x00, 0xCC, 0x33, 0xC3, 0x3C, 0xAC]

/-- Idle, whatever is offered. -/
theorem test_legal_offering (cs : List Command) : LegalState (offering cs) where
  plen_le := (by decide : State.reset.plen.toNat ≤ 65526)
  len_eq h := absurd rfl h
  payload_idx h := nomatch h
  footer_idx h := nomatch h
  other_idx _ _ := rfl
  chk_eq h := absurd rfl h
  status_legal := (by decide : legalStatus State.reset.status = true)

/-- A row of T-S is a legal state where its numbers fit together. -/
theorem test_legal_flight {phase : Phase} {idx : BitVec 16} {chk : Byte} {sent : List Byte}
    (hidx : (phase = .payload → idx.toNat < 2) ∧ (phase = .footer → idx.toNat ≤ 3) ∧
      (phase ≠ .payload → phase ≠ .footer → idx = 0))
    (hsent : sent = (flight phase idx chk sent).frame.take (flight phase idx chk sent).position ∧ chk = xorFold sent) :
    LegalState (flight phase idx chk sent) where
  plen_le := (by decide : (2 : BitVec 16).toNat ≤ 65526)
  len_eq _ := (by decide : (0x000B : BitVec 16).toNat = (2 : BitVec 16).toNat + 9)
  payload_idx h := ⟨(by decide : 1 ≤ (2 : BitVec 16).toNat), hidx.1 h⟩
  footer_idx := hidx.2.1
  other_idx := hidx.2.2
  chk_eq _ := ⟨[], sent, by simp [State.stream, flight, Function.comp_def], hsent.1, hsent.2⟩
  status_legal := (by decide : legalStatus 0 = true)

theorem test_legal_header : LegalState (flight .header 0 0x00 []) := test_legal_flight (by decide) (by decide)
theorem test_legal_lenHi : LegalState (flight .lenHi 0 0xA5 [0xA5]) := test_legal_flight (by decide) (by decide)
theorem test_legal_lenLo : LegalState (flight .lenLo 0 0xA5 [0xA5, 0x00]) := test_legal_flight (by decide) (by decide)
theorem test_legal_opcode : LegalState (flight .opcode 0 0xAE [0xA5, 0x00, 0x0B]) := test_legal_flight (by decide) (by decide)
theorem test_legal_payload_first : LegalState (flight .payload 0 0xBE [0xA5, 0x00, 0x0B, 0x10]) :=
  test_legal_flight (by decide) (by decide)
theorem test_legal_payload_last : LegalState (flight .payload 1 0xBF [0xA5, 0x00, 0x0B, 0x10, 0x01]) :=
  test_legal_flight (by decide) (by decide)
theorem test_legal_footer_first : LegalState (flight .footer 0 0xBD [0xA5, 0x00, 0x0B, 0x10, 0x01, 0x02]) :=
  test_legal_flight (by decide) (by decide)
theorem test_legal_footer_last : LegalState (flight .footer 3 0x81 [0xA5, 0x00, 0x0B, 0x10, 0x01, 0x02, 0xCC, 0x33, 0xC3]) :=
  test_legal_flight (by decide) (by decide)
theorem test_legal_checksum :
    LegalState (flight .checksum 0 0xBD [0xA5, 0x00, 0x0B, 0x10, 0x01, 0x02, 0xCC, 0x33, 0xC3, 0x3C]) :=
  test_legal_flight (by decide) (by decide)

/-- The same with `rst` asserted, and with a sink that is not ready. -/
theorem test_legal_levels :
    LegalState (resetting (flight .payload 1 0xBF [0xA5, 0x00, 0x0B, 0x10, 0x01])) ∧
    LegalState (stalled (flight .payload 1 0xBF [0xA5, 0x00, 0x0B, 0x10, 0x01])) :=
  let h := test_legal_payload_last
  ⟨⟨h.plen_le, h.len_eq, h.payload_idx, h.footer_idx, h.other_idx, h.chk_eq, h.status_legal⟩,
    ⟨h.plen_le, h.len_eq, h.payload_idx, h.footer_idx, h.other_idx, h.chk_eq, h.status_legal⟩⟩

/-- The Handshake trace before its fourth emit step: OPCODE with an empty payload. -/
def handshakeAtOpcode : State :=
  { State.reset with
    phase := .opcode
    len := 0x0009
    chk := 0xAC
    env := { State.reset.env with received := [⟨0xA5, false⟩, ⟨0x00, false⟩, ⟨0x09, false⟩] } }

theorem test_legal_empty_payload : LegalState handshakeAtOpcode where
  plen_le := by decide
  len_eq := by decide
  payload_idx := by decide
  footer_idx := by decide
  other_idx := by decide
  chk_eq _ := ⟨[], [0xA5, 0x00, 0x09], by decide, by decide, by decide⟩
  status_legal := by decide

/-! #### Encoding and frames -/

/-- T-C1: the ignored inputs. -/
theorem test_witness_UnusedInputsAreIgnored :
    let c : Command := encode (.setStorageMode (some 1))
    let d : Command := { c with a1 := ⟨true, -7⟩, bytes := [0xFF] }
    c.raw = d.raw ∧ c.op = d.op ∧
      (∀ k : Fin 6, c.raw = false → k.val < slotsUsed c.op → (slotOf c k).arg = (slotOf d k).arg) ∧
      (usesBytes c = true → c.bytes = d.bytes) ∧ c ≠ d := by decide

/-- The same for RAW and for a text. -/
theorem test_witness_UnusedInputsAreIgnored_bytes :
    ∀ c ∈ [encode (.raw 0x10 [0x09]), encode (.displayText (some 1) (some 2) [0x41])],
      let d : Command := { c with a5 := ⟨true, -7⟩ }
      c.raw = d.raw ∧ c.op = d.op ∧
        (∀ k : Fin 6, c.raw = false → k.val < slotsUsed c.op → (slotOf c k).arg = (slotOf d k).arg) ∧
        (usesBytes c = true → c.bytes = d.bytes) ∧ c ≠ d := by decide

theorem test_witness_UnassignedOpcode :
    ∀ op ∈ ([0x03, 0x05, 0x09, 0x0B, 0x12, 0x1D, 0x20, 0x25, 0x2A, 0x2D, 0x2F, 0x31, 0x6F, 0x71, 0xFF] : List Byte),
      let c := Command.catalog op (some (-1))
      (offering [c]).rst = false ∧ (offering [c]).phase = .idle ∧ (offering [c]).offered = some c ∧ c.raw = false ∧
        c.op.toNat ∈ unassignedOps := by decide

theorem test_witness_FrameIsLaidOut : ([] : List Byte).length ≤ 65526 ∧ (List.replicate 65526 (0x00 : Byte)).length ≤ 65526 :=
  ⟨by decide, Nat.le_of_eq List.length_replicate⟩

theorem test_witness_OversizePayload : ∃ (s : State) (c : Command) (op : Byte) (p : List Byte), s.rst = false ∧
    s.phase = .idle ∧ s.offered = some c ∧ marshal c = .ok (op, p) ∧ 65526 < p.length := by
  obtain ⟨p, hp⟩ : ∃ p : List Byte, p.length = 65527 := ⟨List.replicate 65527 0x00, List.length_replicate⟩
  exact ⟨offering [encode (.raw 0x00 p)], encode (.raw 0x00 p), 0x00, p, rfl, rfl, rfl, rfl, by omega⟩

theorem test_witness_FrameLaws :
    encodeFrame 0x07 [0x01] = .ok [0xA5, 0x00, 0x0A, 0x07, 0x01, 0xCC, 0x33, 0xC3, 0x3C, 0xA9] ∧
    0 < ([0x01] : List Byte).length ∧ ([0x01] : List Byte)[0]? ≠ some 0x00 ∧
    encodeFrame 0x07 (([0x01] : List Byte).set 0 0x00) = .ok [0xA5, 0x00, 0x0A, 0x07, 0x00, 0xCC, 0x33, 0xC3, 0x3C, 0xA8] := by
  decide

/-- One frame of each format (R78). -/
theorem test_witness_FrameLengthByFormat :
    ([encode .handshake, encode (.setStorageMode none), encode (.setPallet none none), encode (.setBaudrate (some 9600)),
      encode (.drawCircle (some 1) (some 2) (some 3)), encode (.fillTriangle (some 1) (some 2) (some 3) (some 4) (some 5) (some 6)),
      encode (.displayText (some 0) (some 0) []), encode (.displayImage (some 0) (some 0) [0x41]),
      encode (.raw 0x30 [])].map fun c => (commandFrame c).toOption.map List.length) =
    [some 9, some 10, some 11, some 13, some 15, some 21, some 14, some 15, some 9] := by decide

theorem test_witness_ReaderFindsEachFrame : encodeFrame 0x00 [] = .ok handshakeFrame := by decide

/-! #### Instructions -/

theorem test_inU16 : inU16 (some 0) ∧ inU16 (some 65535) ∧ ¬ inU16 none ∧ ¬ inU16 (some 65536) ∧ ¬ inU16 (some (-1)) :=
  ⟨⟨0, rfl, by decide, by decide⟩, ⟨65535, rfl, by decide, by decide⟩, (by rintro ⟨_, h, -⟩; cases h),
    (by rintro ⟨_, h, -, h1⟩; cases h; exact absurd h1 (by decide)),
    (by rintro ⟨_, h, h0, -⟩; cases h; exact absurd h0 (by decide))⟩

/-- Arguments of which slot `k` is the first bad one. -/
def firstBad {n : Nat} (k j : Fin n) : Option Int := if j = k then some 65536 else some 65535

theorem test_firstBad {n : Nat} (k : Fin n) : (∀ j < k, inU16 (firstBad k j)) ∧ ¬ inU16 (firstBad k k) :=
  ⟨fun j hj => by rw [firstBad, if_neg (Fin.ne_of_lt hj)]; exact test_inU16.2.1,
    by rw [firstBad, if_pos rfl]; exact test_inU16.2.2.2.1⟩

/-- IDLE, after a frame and after a rejected command, for every statement that starts there. -/
theorem test_witness_idle : State.reset.phase = .idle ∧ (flight .idle 0 0xBD []).phase = .idle ∧
    ({ State.reset with status := 5 } : State).phase = .idle := by decide

theorem test_witness_NoArgument : State.reset.phase = .idle ∧
    (Instr.sleepMode, (0x08 : Byte)) ∈ [(Instr.handshake, (0x00 : Byte)), (.sleepMode, 0x08)] ∧
    (Command.catalog 0x08 (some 99)).raw = false ∧ (Command.catalog 0x08 (some 99)).op = 0x08 := by decide

theorem test_witness_SetBaudrate : State.reset.phase = .idle ∧ (∀ rate ∈ ([0, 4294967295] : List Int), 0 ≤ rate ∧ rate < 4294967296) ∧
    ∀ rate ∈ ([none, some (-1), some 4294967296] : List (Option Int)), ∀ v, rate = some v → v < 0 ∨ 4294967296 ≤ v := by
  refine ⟨rfl, by decide, ?_⟩
  intro rate hr v hv
  subst hv
  simp at hr
  omega

theorem test_witness_settings : State.reset.phase = .idle ∧ (1 : Int) ∈ ([0, 1] : List Int) ∧ (2 : Int) ∉ ([0, 1] : List Int) ∧
    (2 : Int) ∈ ([0, 1, 2] : List Int) ∧ (3 : Int) ∉ ([0, 1, 2] : List Int) ∧ (3 : Int) ∈ ([1, 2, 3] : List Int) ∧
    (0 : Int) ∉ ([1, 2, 3] : List Int) := by decide

theorem test_witness_SetPallet : State.reset.phase = .idle ∧ optBetween 0 3 none = true ∧ optBetween 0 3 (some 0) = true ∧
    optBetween 0 3 (some 3) = true ∧ (4 : Int) ∉ ([0, 1, 2, 3] : List Int) ∧ (-1 : Int) ∉ ([0, 1, 2, 3] : List Int) := by decide

theorem test_witness_Circle : State.reset.phase = .idle ∧ (inU16 (some 0) ∧ inU16 (some 65535)) ∧
    ∀ k : Fin 3, (∀ j < k, inU16 (firstBad k j)) ∧ ¬ inU16 (firstBad k k) :=
  ⟨rfl, ⟨test_inU16.1, test_inU16.2.1⟩, test_firstBad⟩

theorem test_witness_Triangle : State.reset.phase = .idle ∧ (∀ k : Fin 6, inU16 (some ((fun _ => 65535 : Fin 6 → Int) k))) ∧
    ∀ k : Fin 6, (∀ j < k, inU16 (firstBad k j)) ∧ ¬ inU16 (firstBad k k) :=
  ⟨rfl, fun _ => test_inU16.2.1, test_firstBad⟩

theorem test_witness_TextAndImage : State.reset.phase = .idle ∧ inU16 (some 0) ∧ inU16 (some 65535) ∧ ¬ inU16 none ∧
    ¬ inU16 (some 65536) ∧ (List.replicate 65521 (0x41 : Byte)).length ≤ 65521 ∧ 65521 < (List.replicate 65522 (0x41 : Byte)).length :=
  ⟨rfl, test_inU16.1, test_inU16.2.1, test_inU16.2.2.1, test_inU16.2.2.2.1, Nat.le_of_eq List.length_replicate,
    by rw [List.length_replicate]; decide⟩

theorem test_witness_Raw : State.reset.phase = .idle ∧ (List.replicate 65526 (0x00 : Byte)).length ≤ 65526 ∧
    65526 < (List.replicate 65527 (0x00 : Byte)).length :=
  ⟨rfl, Nat.le_of_eq List.length_replicate, by rw [List.length_replicate]; decide⟩

theorem test_witness_busy : (flight .header 0 0x00 []).phase ≠ .idle ∧
    (flight .checksum 0 0xBD [0xA5, 0x00, 0x0B, 0x10, 0x01, 0x02, 0xCC, 0x33, 0xC3, 0x3C]).phase ≠ .idle := by decide

/-! #### Errors -/

/-- Program 2, step 1. -/
theorem test_witness_RejectedCommand :
    let c := encode (.setPallet (some 5) (some 3))
    (offering [c]).rst = false ∧ (offering [c]).phase = .idle ∧ (offering [c]).offered = some c ∧
      commandFrame c = .error (.argument (.slot 0)) := by decide

theorem test_witness_FirstError_opcode : (Command.catalog 0xFF (some (-1))).raw = false ∧
    (Command.catalog 0xFF (some (-1))).op.toNat ∈ unassignedOps := by decide

theorem test_witness_FirstError_slot :
    let c := encode (.fillTriangle (some 0) (some 65535) (some 1) (some 2) (some 3) none)
    c.raw = false ∧ c.op.toNat ∉ unassignedOps ∧ (5 : Fin 6).val < slotsUsed c.op ∧
      (∀ j < (5 : Fin 6), slotFine c.op (slotOf c j).arg = true) ∧ slotFine c.op (slotOf c 5).arg = false := by decide

theorem test_witness_FirstError_none :
    let c := encode (.setPallet none (some 3))
    c.raw = false ∧ c.op.toNat ∉ unassignedOps ∧
      ∀ k : Fin 6, k.val < slotsUsed c.op → slotFine c.op (slotOf c k).arg = true := by decide

theorem test_witness_ErrorsAriseOnlyInIdle :
    (∃ t, step (offering [encode (.setPallet (some 5) (some 3))]) = .next t ∧ t.status ≠ State.reset.status ∧ t.statusKind ≠ 0) ∧
    ∃ t, step (flight .payload 0 0xBE []) = .next t ∧ (flight .payload 0 0xBE []).phase ≠ .idle ∧
      (flight .payload 0 0xBE []).rst = false :=
  ⟨⟨_, rfl, by decide, by decide⟩, ⟨_, rfl, by decide, by decide⟩⟩

/-! #### Steps -/

theorem test_witness_StepRunsTheDecodedInstruction :
    (offering [encode .clearScreen]).rst = false ∧ (offering [encode .clearScreen]).phase = .idle ∧
      (offering [encode .clearScreen]).offered = some (encode .clearScreen) ∧ decode (encode .clearScreen) = .ok .clearScreen := by
  decide

theorem test_witness_PlacedWord : decodeTableWord 16 0x00A = some .refreshAndUpdate ∧ decodeTableWord 16 0x1FF = some (.raw 0xFF []) := by
  decide

theorem test_witness_OfferIsTaken :
    (∃ t, step (offering [encode .handshake]) = .next t ∧ (offering [encode .handshake]).rst = false ∧
      (offering [encode .handshake]).offered = some (encode .handshake) ∧ (offering [encode .handshake]).cmdReady = true) ∧
    ∃ t, step (flight .footer 3 0x81 []) = .next t ∧ (flight .footer 3 0x81 []).rst = false ∧
      (flight .footer 3 0x81 []).offered = some (encode .handshake) ∧ (flight .footer 3 0x81 []).cmdReady = false :=
  ⟨⟨_, rfl, by decide, by decide, by decide⟩, ⟨_, rfl, by decide, by decide, by decide⟩⟩

/-- A state for each action, with a next state. -/
theorem test_witness_WhoWritesWhat :
    (∃ t, step (resetting (flight .lenHi 0 0xA5 [])) = .next t ∧ (resetting (flight .lenHi 0 0xA5 [])).action = .reset) ∧
    (∃ t, step (offering [encode .handshake]) = .next t ∧
      (offering [encode .handshake]).action = .accept (encode .handshake)) ∧
    (∃ t, step (flight .lenHi 0 0xA5 []) = .next t ∧ (flight .lenHi 0 0xA5 []).action = .emit) ∧
    (∃ t, step (stalled (flight .lenHi 0 0xA5 [])) = .next t ∧ (stalled (flight .lenHi 0 0xA5 [])).action = .stall) :=
  ⟨⟨_, rfl, by decide⟩, ⟨_, rfl, by decide⟩, ⟨_, rfl, by decide⟩, ⟨_, rfl, by decide⟩⟩

theorem test_witness_ByteMoves :
    let s := flight .checksum 0 0xBD [0xA5, 0x00, 0x0B, 0x10, 0x01, 0x02, 0xCC, 0x33, 0xC3, 0x3C]
    LegalState s ∧ s.rst = false ∧ (∃ t, step s = .next t) ∧ s.outValid = true ∧ s.outReady = true :=
  ⟨test_legal_checksum, by decide, ⟨_, rfl⟩, by decide, by decide⟩

theorem test_witness_ByteMoves_not :
    let s := stalled (flight .payload 1 0xBF [0xA5, 0x00, 0x0B, 0x10, 0x01])
    LegalState s ∧ s.rst = false ∧ (∃ t, step s = .next t) ∧ ¬ (s.outValid = true ∧ s.outReady = true) :=
  ⟨test_legal_levels.2, by decide, ⟨_, rfl⟩, by decide⟩

/-- With `test_legal_…`, every phase and the boundaries of each section. -/
theorem test_witness_EmitStep :
    ∀ s ∈ [flight .header 0 0x00 [], flight .payload 1 0xBF [0xA5, 0x00, 0x0B, 0x10, 0x01], handshakeAtOpcode],
      s.phase ≠ .idle ∧ s.rst = false ∧ s.outReady = true := by decide

theorem test_witness_EmitStep_idle : ∃ t, step ((flight .idle 0 0xBD []).withOffers []) = .next t ∧ t.phase = .idle ∧
    ((flight .idle 0 0xBD []).withOffers []).phase = .idle ∧ ((flight .idle 0 0xBD []).withOffers []).rst = false :=
  ⟨_, rfl, by decide, by decide, by decide⟩

theorem test_witness_reset : (resetting (flight .payload 1 0xBF [])).rst = true ∧
    (resetting (flight .payload 1 0xBF [])).offered = some (encode .handshake) := by decide

theorem test_witness_UnwrittenEntries : ∃ t, exec (.setStorageMode (some 1)) (flight .idle 0 0xBD []) = .next t ∧
    (t.phase = .header → t.plen.toNat ≤ 1) ∧ t.phase = .header := ⟨_, rfl, by decide, by decide⟩

theorem test_witness_ResetAbandonsTheFrame :
    let s := resetting (flight .payload 1 0xBF [0xA5, 0x00, 0x0B, 0x10, 0x01])
    LegalState s ∧ s.phase ≠ .idle ∧ s.rst = true := ⟨test_legal_levels.1, by decide, by decide⟩

theorem test_witness_StalledSink (n : Nat) :
    let s := stalled (flight .payload 0 0xBE [])
    s.phase ≠ .idle ∧ s.env.rstLevels = [] ∧ (∀ k < n, s.env.sink.getD k s.env.sinkRest = false) ∧
      s.offered = some (encode .handshake) := ⟨by decide, rfl, fun _ _ => rfl, by decide⟩

theorem test_witness_FrameDepends : ∃ t t', (offering [encode .handshake]).phase = .idle ∧ (flight .idle 0 0xBD []).phase = .idle ∧
    (offering [encode .handshake]).rst = false ∧ (flight .idle 0 0xBD []).rst = false ∧
    (offering [encode .handshake]).offered = some (encode .handshake) ∧
    (flight .idle 0 0xBD []).offered = some (encode .handshake) ∧ step (offering [encode .handshake]) = .next t ∧
    step (flight .idle 0 0xBD []) = .next t' ∧ t.phase = .header :=
  ⟨_, _, rfl, rfl, rfl, rfl, rfl, rfl, rfl, rfl, by decide⟩

/-! #### The whole machine -/

/-- A legal state with a next step, for each kind of step. -/
theorem test_witness_LegalStateIsKept :
    (LegalState (offering [encode .handshake]) ∧ ∃ t, step (offering [encode .handshake]) = .next t) ∧
    (let s := flight .footer 3 0x81 [0xA5, 0x00, 0x0B, 0x10, 0x01, 0x02, 0xCC, 0x33, 0xC3];
      LegalState s ∧ ∃ t, step s = .next t) ∧
    (let s := resetting (flight .payload 1 0xBF [0xA5, 0x00, 0x0B, 0x10, 0x01]);
      LegalState s ∧ ∃ t, step s = .next t) :=
  ⟨⟨test_legal_offering _, _, rfl⟩, ⟨test_legal_footer_last, _, rfl⟩, ⟨test_legal_levels.1, _, rfl⟩⟩

theorem test_witness_PayloadBuffer : Memory.wf (flight .idle 0 0xBD []).pbuf = true ∧
    ∃ t, step (flight .idle 0 0xBD []) = .next t := ⟨by decide, _, rfl⟩

theorem test_witness_ReachableStates : ∃ t : State,
    Host.Core.run Sys2Proof.core 1 ({ State.reset with env := (offering [encode .handshake]).env } : State) = .next t := ⟨_, rfl⟩

/-- Where a step does stop: an unreachable state (log 7). -/
theorem test_section_index_fault : step (flight .footer 4 0x00 []) = .fault (.sectionIndex .footer) ∧
    step (flight .payload 65526 0x00 []) = .fault (.sectionIndex .payload) := ⟨rfl, rfl⟩

theorem test_witness_PhasesFollow : LegalState (flight .header 0 0x00 []) ∧ (flight .header 0 0x00 []).phase = .header ∧
    11 ≤ (flight .header 0 0x00 []).plen.toNat + 9 := ⟨test_legal_header, by decide, by decide⟩

theorem test_witness_Emission :
    let s := offering [encode .handshake]
    s.rst = false ∧ s.phase = .idle ∧ s.offered = some (encode .handshake) ∧ marshal (encode .handshake) = .ok (0x00, []) ∧
      encodeFrame 0x00 [] = .ok handshakeFrame ∧ (9 ≤ handshakeFrame.length) := by decide

theorem test_witness_FrameTakesItsLength :
    let s := offering [encode .handshake]
    s.phase = .idle ∧ s.env.rstLevels = [] ∧ s.env.sink = [] ∧ s.env.sinkRest = true ∧
      s.offered = some (encode .handshake) ∧ commandFrame (encode .handshake) = .ok handshakeFrame := by decide

theorem test_witness_StepKeepsTheStream :
    let s := flight .payload 0 0xBE [0xA5, 0x00, 0x0B, 0x10]
    LegalState s ∧ s.rst = false ∧ ∃ t, step s = .next t := ⟨test_legal_payload_first, by decide, _, rfl⟩

/-- A rejected command: idle again after one step, with nothing left to offer. -/
theorem test_witness_StreamIsTheFrames :
    let s := offering [encode (.setPallet (some 4) none)]
    LegalState s ∧ s.phase = .idle ∧ s.env.rstLevels = [] ∧
      ∃ t : State, Host.Core.run Sys2Proof.core 1 s = .next t ∧ t.phase = .idle ∧ t.env.producer = [] :=
  ⟨test_legal_offering _, rfl, rfl, _, rfl, by decide, by decide⟩

/-- A command whose frame is sent: idle again after its accept step and nine emit steps, with nothing left to offer. -/
theorem test_witness_StreamIsTheFrames_sent :
    let s := offering [encode .handshake]
    LegalState s ∧ s.phase = .idle ∧ s.env.rstLevels = [] ∧
      ∃ t : State, Host.Core.run Sys2Proof.core 10 s = .next t ∧ t.phase = .idle ∧ t.env.producer = [] ∧
        t.stream = handshakeFrame :=
  ⟨test_legal_offering _, rfl, rfl, _, rfl, by decide, by decide, by decide⟩

end Sys2Proof.Tests
end

section
/-!
PROOFS. The state and its invariants: what an accept, an emit and a reset step leave of R35, the handshakes on both ports, and
where a step stops.
-/

namespace Sys2Proof.Machine

/-! ### The environment between steps -/

/-- A taken transaction is gone, and a step without an offer has passed. -/
theorem advanceProducer_true (offers : List (Option Command)) : advanceProducer true offers = offers.tail := by
  rcases offers with _ | ⟨_ | c, rest⟩ <;> rfl

/-- An offered transaction that is not taken is held (R215). -/
theorem advanceProducer_false_of_offered {s : State} {c : Command} (ho : s.offered = some c) :
    advanceProducer false s.env.producer = s.env.producer := by
  rw [State.offered] at ho
  rcases hp : s.env.producer with _ | ⟨_ | d, rest⟩
  · rfl
  · simp [hp] at ho
  · rfl

/-- The host's load releases the reset line for the coming step (log 3). -/
@[simp] theorem State.presenting_rst (s : State) (c : Command) : (s.presenting c).rst = false := by
  change (if s.rst then false :: s.env.rstLevels.tail else s.env.rstLevels).headD false = false
  split
  · rfl
  · rename_i hr
    exact Bool.eq_false_iff.mpr hr

@[simp] theorem State.presenting_offered (s : State) (c : Command) : (s.presenting c).offered = some c := rfl

/-! ### The step that runs an instruction -/

theorem State.action_of_offer {s : State} {c : Command} (hr : s.rst = false) (hi : s.phase = .idle)
    (ho : s.offered = some c) : s.action = .accept c := by
  simp [State.action, (cmdReady_iff s).mpr hi, hr, ho]

theorem step_of_decoded {s : State} {c : Command} {i : Instr} (hr : s.rst = false) (hi : s.phase = .idle)
    (ho : s.offered = some c) (hd : decode c = .ok i) : step s = thenNext (fun t => t.tick true) (exec i s) := by
  simp only [step, State.action_of_offer hr hi ho, hd]

/-- Settles O31: the input levels enable the accept step, whose arm calls `exec`. -/
theorem stepRunsTheDecodedInstruction : Obligations.StepRunsTheDecodedInstruction :=
  fun _ _ _ hr hi ho hd => step_of_decoded hr hi ho hd

theorem decode_of_decodeTableWord {nbits w : Nat} {i : Instr} (h : decodeTableWord nbits w = some i) :
    decode (tableCommand nbits w) = .ok i := by
  rw [decodeTableWord] at h
  cases hd : decode (tableCommand nbits w) with
  | error e => simp [hd, Except.toOption] at h
  | ok j => simpa [hd, Except.toOption] using h

/-- Settles O32: the placed word's transaction is on offer in IDLE with the reset line released. -/
theorem placedWordIsRunNext : Obligations.PlacedWordIsRunNext := by
  intro s nbits w i h
  exact step_of_decoded (State.presenting_rst s _) (State.presenting_phase s _) (State.presenting_offered s _)
    (decode_of_decodeTableWord h)

/-! ### The command port -/

/-- Settles O33: of the four kinds of step only the accept step takes the offer; an emit step and a stall keep every register
that an accept writes. -/
theorem offerIsTakenExactlyInIdle : Obligations.OfferIsTakenExactlyInIdle := by
  intro s t c hr ho h
  have held := advanceProducer_false_of_offered ho
  refine ⟨cmdReady_iff s, ?_⟩
  rw [Bool.eq_false_iff, ne_eq, cmdReady_iff]
  rcases step_cases h with ⟨hr', -⟩ | ⟨-, hi, d, -, hacc⟩ | ⟨-, hb, -, b, -, rfl⟩ | ⟨-, hstall, rfl⟩
  · simp [hr] at hr'
  · refine ⟨fun _ => ?_, fun hb => absurd hi hb⟩
    rcases hacc with ⟨e, -, rfl⟩ | ⟨op, p, -, -, -, rfl⟩ <;> simp [advanceProducer_true]
  · exact ⟨fun hi => absurd hi hb, fun _ => by simp [State.afterEmit_env, held]⟩
  · rcases hstall with ⟨-, hn⟩ | ⟨hb, -⟩
    · simp [ho] at hn
    · exact ⟨fun hi => absurd hi hb, fun _ => by simp [held]⟩

/-! ### The byte port -/

theorem outValid_iff (s : State) : s.outValid = true ↔ s.phase ≠ .idle := by simp [State.outValid]

theorem outLast_iff (s : State) : s.outLast = true ↔ s.phase = .checksum := by simp [State.outLast]

theorem outData_of_idle {s : State} (h : s.phase = .idle) : s.outData = none := by simp [State.outData, h]

theorem outValid_iff_outData {s : State} (h : LegalState s) : s.outValid = true ↔ ∃ b, s.outData = some b := by
  rw [outValid_iff]
  constructor
  · intro hb
    obtain ⟨b, ho, -⟩ := outData_isSome h hb
    exact ⟨b, ho⟩
  · rintro ⟨b, ho⟩ hi
    simp [outData_of_idle hi] at ho

/-- Settles O36: only an emit step adds to what the sink has received, and it is the step taken exactly on the handshake. -/
theorem byteMovesExactlyOnHandshake : Obligations.ByteMovesExactlyOnHandshake := by
  intro s hs
  refine ⟨outValid_iff s, outLast_iff s, outValid_iff_outData hs, fun t hr h => ?_⟩
  rw [outValid_iff]
  rcases step_cases h with ⟨hr', -⟩ | ⟨-, hi, c, -, hacc⟩ | ⟨-, hb, hready, b, ho, rfl⟩ | ⟨-, hstall, rfl⟩
  · simp [hr] at hr'
  · refine ⟨fun hmove => absurd hi hmove.1, fun _ => ?_⟩
    rcases hacc with ⟨e, -, rfl⟩ | ⟨op, p, -, -, -, rfl⟩ <;> rfl
  · exact ⟨fun _ => ⟨b, ho, by simp [State.afterEmit_env]⟩, fun hno => absurd ⟨hb, hready⟩ hno⟩
  · refine ⟨fun ⟨hb, hready⟩ => ?_, fun _ => rfl⟩
    rcases hstall with ⟨hi, -⟩ | ⟨-, hnot⟩
    · exact absurd hi hb
    · simp [hready] at hnot

/-- The high byte of a 16-bit register, by division (R33). -/
theorem extractLsb'_8_8_eq_div (x : BitVec 16) : x.extractLsb' 8 8 = BitVec.ofNat 8 (x.toNat / 256) := by
  apply BitVec.eq_of_toNat_eq
  simp [Nat.shiftRight_eq_div_pow]

/-- The low byte of a 16-bit register, by remainder (R33). -/
theorem extractLsb'_0_8_eq_mod (x : BitVec 16) : x.extractLsb' 0 8 = BitVec.ofNat 8 (x.toNat % 256) := by
  apply BitVec.eq_of_toNat_eq
  simp

/-- Settles O35: PHASE by PHASE, the bytes of LEN by division, and in PAYLOAD an IDX that legality keeps below the capacity. -/
theorem offeredByteByPhase : Obligations.OfferedByteByPhase := by
  intro s hs
  cases hph : s.phase with
  | lenHi => simp only [State.outData, hph, extractLsb'_8_8_eq_div]
  | lenLo => simp only [State.outData, hph, extractLsb'_0_8_eq_mod]
  | payload =>
    have hidx : s.idx.toNat < pbufCapacity := (hs.payload_idx hph).2.trans_le hs.plen_le
    simp only [State.outData, hph, State.pbufRead, if_pos hidx]
  | header | footer => simp only [State.outData, hph]; rfl
  | idle | opcode | checksum => simp only [State.outData, hph]

/-! ### Where a step stops (log 7) -/

/-- PBUF has no entry at or above its capacity (R24). -/
theorem pbufRead_eq_none_iff (s : State) (i : Nat) : s.pbufRead i = none ↔ 65526 ≤ i := by
  unfold State.pbufRead pbufCapacity
  split
  · simpa using ‹i < 65526›
  · simpa using ‹¬ i < 65526›

/-- Outside IDLE no byte is named exactly where IDX lies outside its section. -/
theorem outData_eq_none_iff {s : State} (hb : s.phase ≠ .idle) : s.outData = none ↔
    (s.phase = .payload ∧ 65526 ≤ s.idx.toNat) ∨ (s.phase = .footer ∧ 4 ≤ s.idx.toNat) := by
  cases hph : s.phase with
  | idle => exact absurd hph hb
  | payload => simp [State.outData, hph, pbufRead_eq_none_iff]
  | footer => simp [State.outData, hph, footer]
  | header | lenHi | lenLo | opcode | checksum => simp [State.outData, hph]

theorem emit_of_outData_none {s : State} (hb : s.phase ≠ .idle) (ho : s.outData = none) :
    s.emit = .fault (.sectionIndex s.phase) := by
  simp [State.emit, ho, hb]

/-- Every step but an emit step answers a next state, and so does an emit step that moves a byte. -/
theorem step_next_or_fault (s : State) : (∃ t, step s = .next t) ∨
    (s.rst = false ∧ s.phase ≠ .idle ∧ s.outReady = true ∧ s.outData = none ∧
      step s = .fault (.sectionIndex s.phase)) := by
  rcases hr : s.rst with _ | _
  · by_cases hi : s.phase = .idle
    · rcases ho : s.offered with _ | c
      · exact .inl ⟨_, step_of_no_offer hr hi ho⟩
      · exact .inl ⟨_, step_of_offer hr hi ho⟩
    · rcases ho : s.outReady with _ | _
      · exact .inl ⟨_, step_of_not_ready hr hi ho⟩
      · rw [step_of_ready hr hi ho]
        rcases hd : s.outData with _ | b
        · exact .inr ⟨rfl, hi, rfl, rfl, by rw [emit_of_outData_none hi hd]; rfl⟩
        · exact .inl ⟨(s.afterEmit b).tick false, by simp [State.emit, hd, thenNext]⟩
  · exact .inl ⟨_, step_of_reset hr⟩

theorem step_ne_refused (s : State) (r : Refusal) : step s ≠ .refused r := by
  rcases step_next_or_fault s with ⟨t, h⟩ | ⟨-, -, -, -, h⟩ <;> simp [h]

theorem step_eq_fault_iff (s : State) (r : Fault) : step s = .fault r ↔
    r = .sectionIndex s.phase ∧ s.rst = false ∧ s.outReady = true ∧ s.phase ≠ .idle ∧ s.outData = none := by
  constructor
  · intro h
    rcases step_next_or_fault s with ⟨t, ht⟩ | ⟨hr, hb, hready, ho, hf⟩
    · simp [ht] at h
    · rw [hf] at h
      cases h
      exact ⟨rfl, hr, hready, hb, ho⟩
  · rintro ⟨rfl, hr, hready, hb, ho⟩
    rw [step_of_ready hr hb hready, emit_of_outData_none hb ho]
    rfl

/-- Settles O50: a step faults exactly where an emit step is enabled and no byte is named. -/
theorem stepStopsOnlyOutsideASection : Obligations.StepStopsOnlyOutsideASection := by
  intro s
  refine ⟨step_ne_refused s, fun r => ?_⟩
  rw [step_eq_fault_iff]
  refine and_congr_right fun _ => and_congr_right fun _ => and_congr_right fun _ => ?_
  constructor
  · rintro ⟨hb, ho⟩
    exact (outData_eq_none_iff hb).mp ho
  · intro hidx
    have hb : s.phase ≠ .idle := by rcases hidx with ⟨hp, -⟩ | ⟨hp, -⟩ <;> simp [hp]
    exact ⟨hb, (outData_eq_none_iff hb).mpr hidx⟩

/-! ### The canonical form of PBUF -/

/-- Settles O47: a reset empties PBUF, a successful accept stores a payload that fits, and no other step writes it. -/
theorem payloadBufferStaysCanonical : Obligations.PayloadBufferStaysCanonical := by
  refine ⟨Memory.wf_reset, fun s t hs h => ?_⟩
  rcases step_cases h with ⟨-, rfl⟩ | ⟨-, -, c, -, ⟨e, -, rfl⟩ | ⟨op, p, -, hp, -, rfl⟩⟩ | ⟨-, -, -, b, -, rfl⟩ |
    ⟨-, -, rfl⟩
  · rfl
  · simpa using hs
  · simpa using Memory.wf_store hp hs
  · simpa using hs
  · simpa using hs

/-! ### Legal states (R35): reset -/

/-- Settles O40: the reset state is a literal, so each value is computed. -/
theorem resetStateValues : Obligations.ResetStateValues := by
  refine ⟨rfl, rfl, rfl, rfl, rfl, rfl, ?_, ?_, rfl, rfl, rfl, rfl⟩ <;> decide

/-- An idle state with PLEN and IDX 0 and a legal STATUS is legal: no frame is in flight. -/
theorem LegalState.of_idle {s : State} (hi : s.phase = .idle) (hplen : s.plen = 0) (hidx : s.idx = 0)
    (hst : legalStatus s.status = true) : LegalState s where
  plen_le := by simp [hplen]
  len_eq hb := absurd hi hb
  payload_idx hp := by simp [hi] at hp
  footer_idx hp := by simp [hi] at hp
  other_idx _ _ := hidx
  chk_eq hb := absurd hi hb
  status_legal := hst

theorem legalStatus_statusOk : legalStatus statusOk = true := by decide

/-- The reset state is legal under every environment (R37). -/
theorem LegalState.reset (env : Env) : LegalState ({ State.reset with env := env } : State) :=
  .of_idle rfl rfl rfl (by decide : legalStatus 0 = true)

/-- Settles O46: the case of the reset state's own environment. -/
theorem resetIsLegal : Obligations.ResetIsLegal := LegalState.reset State.reset.env

theorem LegalState.resetStep (s : State) : LegalState s.resetStep := .of_idle rfl rfl rfl legalStatus_statusOk

/-! ### Legal states (R35): what every step keeps -/

/-- The levels of the input ports are no part of R35. -/
theorem LegalState.tick {s : State} (h : LegalState s) (taken : Bool) : LegalState (s.tick taken) :=
  ⟨h.plen_le, h.len_eq, h.payload_idx, h.footer_idx, h.other_idx, h.chk_eq, h.status_legal⟩

/-- An error writes a legal STATUS and nothing else (R193). -/
theorem LegalState.takeError {s : State} (h : LegalState s) (e : CmdError) : LegalState (s.takeError e) :=
  ⟨h.plen_le, h.len_eq, h.payload_idx, h.footer_idx, h.other_idx, h.chk_eq, legalStatus_errorStatus e⟩

/-- A frame that has just been latched is at its start: none of its bytes has been emitted, and CHK is their empty XOR. -/
theorem LegalState.latch (s : State) (op : Byte) {p : List Byte} (hp : p.length ≤ maxPayload) :
    LegalState (s.latch op p) := by
  have acc := latch_accepted s op hp
  exact {
    plen_le := acc.plen.trans_le hp
    len_eq := fun _ => by rw [acc.len, acc.plen]
    payload_idx := fun h => by simp at h
    footer_idx := fun h => by simp at h
    other_idx := fun _ _ => acc.idx
    chk_eq := fun _ => ⟨s.stream, [], (List.append_nil _).symm, rfl, rfl⟩
    status_legal := legalStatus_statusOk }

/-- IDX + 1 does not wrap where IDX is below a 16-bit bound. -/
theorem toNat_add_one_of_lt {x : BitVec 16} {n : Nat} (h : x.toNat < n) (hn : n ≤ 65535) :
    (x + 1).toNat = x.toNat + 1 :=
  BitVec.toNat_add_of_lt (y := 1) (by change x.toNat + 1 < 65536; omega)

/-- Items 2 to 4 of R35 after the sequencer has moved on. -/
theorem sequence_idx_legal {s : State} (h : LegalState s) (hb : s.phase ≠ .idle) :
    (s.sequence.phase = .payload → 1 ≤ s.plen.toNat ∧ s.sequence.idx.toNat < s.plen.toNat) ∧
    (s.sequence.phase = .footer → s.sequence.idx.toNat ≤ 3) ∧
    (s.sequence.phase ≠ .payload → s.sequence.phase ≠ .footer → s.sequence.idx = 0) := by
  have hcap := h.plen_le
  cases hph : s.phase with
  | idle => exact absurd hph hb
  | header | lenHi | lenLo | checksum =>
    have hidx : s.idx = 0 := h.other_idx (by simp [hph]) (by simp [hph])
    simp [State.sequence, hph, hidx]
  | opcode =>
    by_cases hz : s.plen = 0
    · simp [State.sequence, hph, hz]
    · have hpos : s.plen.toNat ≠ 0 := fun e => hz (BitVec.eq_of_toNat_eq (by simpa using e))
      simp only [State.sequence, hph, if_neg hz]
      exact ⟨fun _ => ⟨by omega, by simpa [Nat.pos_iff_ne_zero] using hpos⟩, by simp, by simp⟩
  | payload =>
    obtain ⟨hpos, hlt⟩ := h.payload_idx hph
    have hsucc := toNat_add_one_of_lt hlt (by omega)
    by_cases hend : s.idx.toNat + 1 = s.plen.toNat
    · simp [State.sequence, hph, hend]
    · simp only [State.sequence, hph, if_neg hend, hsucc]
      exact ⟨fun _ => ⟨hpos, by omega⟩, by simp, by simp⟩
  | footer =>
    have hle := h.footer_idx hph
    have hsucc := toNat_add_one_of_lt (Nat.lt_succ_of_le hle) (by omega)
    by_cases hend : s.idx = 3
    · simp [State.sequence, hph, hend]
    · have hne : s.idx.toNat ≠ 3 := fun e => hend (BitVec.eq_of_toNat_eq (by simpa using e))
      simp only [State.sequence, hph, if_neg hend, hsucc]
      exact ⟨by simp, fun _ => by omega, by simp⟩

/-- Item 5 of R35 after an emit step: the byte moved is the frame's next one, and it is folded into CHK. -/
theorem afterEmit_chk_eq {s : State} {b : Byte} (h : LegalState s) (hb : s.phase ≠ .idle) (ho : s.outData = some b)
    (hb' : (s.afterEmit b).phase ≠ .idle) : ∃ earlier emitted, (s.afterEmit b).stream = earlier ++ emitted ∧
      emitted = (s.afterEmit b).frame.take (s.afterEmit b).position ∧ (s.afterEmit b).chk = xorFold emitted := by
  obtain ⟨earlier, emitted, hstream, hemitted, hchk⟩ := h.chk_eq hb
  rw [State.afterEmit_phase] at hb'
  rcases sequence_position h hb with ⟨-, hidle, -⟩ | ⟨hnc, -, hpos⟩
  · exact absurd hidle hb'
  · refine ⟨earlier, emitted ++ [b], ?_, ?_, ?_⟩
    · rw [afterEmit_stream, hstream, List.append_assoc]
    · rw [afterEmit_frame, afterEmit_position, hpos, List.take_add_one, ← outData_eq h hb, ho, hemitted]
      rfl
    · rw [State.afterEmit_chk, if_neg hnc, hchk, xorFold_append, xorFold_singleton]

theorem LegalState.afterEmit {s : State} {b : Byte} (h : LegalState s) (hb : s.phase ≠ .idle)
    (ho : s.outData = some b) : LegalState (s.afterEmit b) := by
  obtain ⟨hpay, hfoot, hother⟩ := sequence_idx_legal h hb
  constructor
  case plen_le => simpa using h.plen_le
  case len_eq => simpa using fun _ => h.len_eq hb
  case payload_idx => simpa [State.afterEmit_phase, State.afterEmit_idx] using hpay
  case footer_idx => simpa [State.afterEmit_phase, State.afterEmit_idx] using hfoot
  case other_idx => simpa [State.afterEmit_phase, State.afterEmit_idx] using hother
  case chk_eq => exact afterEmit_chk_eq h hb ho
  case status_legal => simpa using h.status_legal

/-- Every step from a legal state leads to a legal state (R35). -/
theorem LegalState.step {s t : State} (hs : LegalState s) (h : Machine.step s = .next t) : LegalState t := by
  rcases step_cases h with ⟨-, rfl⟩ | ⟨-, -, c, -, ⟨e, -, rfl⟩ | ⟨op, p, -, hp, -, rfl⟩⟩ | ⟨-, hb, -, b, ho, rfl⟩ |
    ⟨-, -, rfl⟩
  · exact (LegalState.resetStep s).tick false
  · exact (hs.takeError e).tick true
  · exact (LegalState.latch s op hp).tick true
  · exact (hs.afterEmit hb ho).tick false
  · exact hs.tick false

/-! ### Runs -/

/-- What every step keeps, every run keeps. -/
theorem run_invariant {P : State → Prop} (hstep : ∀ s t, P s → step s = .next t → P t) (n : Nat) {s t : State}
    (hs : P s) (h : Host.Core.run core n s = .next t) : P t := by
  induction n generalizing s with
  | zero =>
    cases h
    exact hs
  | succ n ih =>
    rw [run_succ] at h
    cases hst : step s with
    | next u =>
      rw [hst] at h
      exact ih (hstep s u hs hst) h
    | fault r => simp [hst] at h
    | refused r => simp [hst] at h

/-- Settles O48: R35 holds at reset under every environment, and every step keeps it. -/
theorem reachableStatesAreLegal : Obligations.ReachableStatesAreLegal :=
  fun n env _ h => run_invariant (fun _ _ => LegalState.step) n (LegalState.reset env) h

end Sys2Proof.Machine
end

section
/-!
PROOFS. The stream and the payload buffer: which entries of PBUF an accept and a reset leave, and that what has been sent, what is
left of the frame in flight and the frames still on offer are one sequence that no step but a reset changes (R58).
-/

namespace Sys2Proof.Machine

/-! ### PBUF outside the payload (log 4, log 5) -/

/-- An accept changes no entry of PBUF but those below the PLEN of a frame it starts (R38). -/
theorem accept_keeps_pbuf {s : State} (r : Marshalled) {k : Nat}
    (hk : (s.accept r).phase = .header → (s.accept r).plen.toNat ≤ k) :
    (s.accept r).pbufByte k = s.pbufByte k ∧ (s.accept r).pbufGen = s.pbufGen := by
  by_cases hi : s.phase = .idle
  · rcases accept_cases hi r with ⟨e, -, ha⟩ | ⟨op, p, -, hp, -, ha⟩
    · simp [ha]
    · rw [ha, (latch_accepted s op hp).plen] at hk
      rw [ha]
      exact ⟨s.latch_pbufByte_of_ge op p k (hk rfl), rfl⟩
  · simp [accept_of_busy hi]

/-- Settles O39: every instruction is an accept of its marshalled command, and a reset empties the list of written entries. -/
theorem unwrittenEntriesOfThePayloadBuffer : Obligations.UnwrittenEntriesOfThePayloadBuffer := by
  refine ⟨fun i s t k h hk => ?_, fun s k hr => ⟨_, step_of_reset hr, rfl, rfl⟩⟩
  rw [exec_eq_accept] at h
  cases h
  exact accept_keeps_pbuf _ hk

/-! ### The frames still on offer -/

theorem producer_of_offered {s : State} {c : Command} (ho : s.offered = some c) :
    s.env.producer = some c :: s.env.producer.tail := by
  rw [State.offered] at ho
  rcases hp : s.env.producer with _ | ⟨d, rest⟩
  · simp [hp] at ho
  · simpa [hp] using ho

/-- Where nothing is taken, at most a step without an offer passes: the frames on offer stay (R215). -/
theorem offeredFrames_not_taken (offers : List (Option Command)) :
    offeredFrames (advanceProducer false offers) = offeredFrames offers := by
  rcases offers with _ | ⟨_ | c, rest⟩ <;> rfl

/-- A taken command whose frame is started takes that frame off the head of those on offer. -/
theorem offeredFrames_of_accepted {s : State} {c : Command} {f : List Byte} (ho : s.offered = some c)
    (hf : commandFrame c = .ok f) :
    offeredFrames s.env.producer = f ++ offeredFrames (advanceProducer true s.env.producer) := by
  rw [producer_of_offered ho, advanceProducer_true, offeredFrames, hf, List.tail_cons]

/-- A rejected command contributes no byte (R193). -/
theorem offeredFrames_of_rejected {s : State} {c : Command} {e : CmdError} (ho : s.offered = some c)
    (hf : commandFrame c = .error e) :
    offeredFrames s.env.producer = offeredFrames (advanceProducer true s.env.producer) := by
  rw [producer_of_offered ho, advanceProducer_true, offeredFrames, hf, List.tail_cons, List.nil_append]

/-! ### What is left of the frame in flight -/

theorem remaining_of_idle {s : State} (hi : s.phase = .idle) : s.remaining = [] := by simp [State.remaining, hi]

theorem remaining_of_busy {s : State} (hb : s.phase ≠ .idle) : s.remaining = s.frame.drop s.position := by
  simp [State.remaining, hb]

@[simp] theorem tick_remaining (s : State) (taken : Bool) : (s.tick taken).remaining = s.remaining := rfl

@[simp] theorem takeError_remaining (s : State) (e : CmdError) : (s.takeError e).remaining = s.remaining := rfl

@[simp] theorem takeError_stream (s : State) (e : CmdError) : (s.takeError e).stream = s.stream := rfl

@[simp] theorem latch_stream (s : State) (op : Byte) (p : List Byte) : (s.latch op p).stream = s.stream := rfl

/-- A frame that has just been latched is all still to come. -/
theorem latch_remaining (s : State) (op : Byte) {p : List Byte} (hp : p.length ≤ maxPayload) :
    (s.latch op p).remaining = frameBytes op p := by
  have hpos : (s.latch op p).position = 0 := rfl
  rw [remaining_of_busy (by simp), hpos, List.drop_zero, latch_frame s op hp]

/-- An emit step takes its byte off the head of what is left of the frame (R113). -/
theorem remaining_eq_cons_afterEmit {s : State} {b : Byte} (h : LegalState s) (hb : s.phase ≠ .idle)
    (ho : s.outData = some b) : s.remaining = b :: (s.afterEmit b).remaining := by
  have hhead : s.remaining = b :: s.frame.drop (s.position + 1) := by
    rw [remaining_of_busy hb, List.drop_eq_getElem?_toList_append, ← outData_eq h hb, ho]
    rfl
  rw [hhead]
  rcases sequence_position h hb with ⟨-, hidle, hend⟩ | ⟨-, hbusy, hpos⟩
  · rw [remaining_of_idle (by rw [State.afterEmit_phase, hidle]), hend, List.drop_length]
  · rw [remaining_of_busy (by rwa [State.afterEmit_phase]), afterEmit_frame, afterEmit_position, hpos]

/-! ### The whole stream -/

/-- What has been sent, what is left of the frame in flight, and the frames of the offers still to come (R58). -/
def State.wholeStream (s : State) : List Byte := s.stream ++ s.remaining ++ offeredFrames s.env.producer

/-- Every step but a reset keeps the whole stream: a frame moves from the offers to the frame in flight, its bytes from there
to the sink, and nothing else moves. -/
theorem step_wholeStream {s t : State} (hs : LegalState s) (hr : s.rst = false) (h : step s = .next t) :
    t.wholeStream = s.wholeStream := by
  unfold State.wholeStream
  rcases step_cases h with ⟨hr', -⟩ | ⟨-, hi, c, ho, ⟨e, hf, rfl⟩ | ⟨op, p, -, hp, hf, rfl⟩⟩ | ⟨-, hb, -, b, ho, rfl⟩ |
    ⟨-, -, rfl⟩
  · simp [hr] at hr'
  · simp [offeredFrames_of_rejected ho hf]
  · simp [remaining_of_idle hi, latch_remaining s op hp, offeredFrames_of_accepted ho hf]
  · simp [afterEmit_stream, State.afterEmit_env, remaining_eq_cons_afterEmit hs hb ho, offeredFrames_not_taken]
  · simp [offeredFrames_not_taken]

/-- Settles O54: the conserved quantity is the whole stream. -/
theorem stepKeepsTheStream : Obligations.StepKeepsTheStream := fun _ _ hs hr h => step_wholeStream hs hr h

/-! ### Runs without a reset -/

theorem rst_of_no_levels {s : State} (h : s.env.rstLevels = []) : s.rst = false := by simp [State.rst, h]

/-- Every step moves the reset line on by one level, and nothing else touches it. -/
theorem step_rstLevels {s t : State} (h : step s = .next t) : t.env.rstLevels = s.env.rstLevels.tail := by
  rcases step_cases h with ⟨-, rfl⟩ | ⟨-, -, c, -, ⟨e, -, rfl⟩ | ⟨op, p, -, -, -, rfl⟩⟩ | ⟨-, -, -, b, -, rfl⟩ |
    ⟨-, -, rfl⟩
  · rfl
  · rfl
  · rfl
  · simp [State.afterEmit_env]
  · rfl

/-- A legal state with no reset to come whose whole stream is `whole`. -/
structure Streaming (whole : List Byte) (s : State) : Prop where
  legal : LegalState s
  no_reset : s.env.rstLevels = []
  whole_eq : s.wholeStream = whole

theorem Streaming.step {whole : List Byte} {s t : State} (hs : Streaming whole s) (h : Machine.step s = .next t) :
    Streaming whole t where
  legal := hs.legal.step h
  no_reset := by rw [step_rstLevels h, hs.no_reset, List.tail_nil]
  whole_eq := (step_wholeStream hs.legal (rst_of_no_levels hs.no_reset) h).trans hs.whole_eq

/-- Settles O55: a run keeps the whole stream; what has been sent is its first part, and all of it where nothing is in flight
and nothing on offer. -/
theorem streamIsTheFramesInOrder : Obligations.StreamIsTheFramesInOrder := by
  intro n s t hs hi hrst h
  have start : Streaming (s.stream ++ offeredFrames s.env.producer) s :=
    ⟨hs, hrst, by simp [State.wholeStream, remaining_of_idle hi]⟩
  have whole := (run_invariant (fun _ _ => Streaming.step) n start h).whole_eq
  rw [State.wholeStream] at whole
  refine ⟨⟨t.remaining ++ offeredFrames t.env.producer, by rw [← whole, List.append_assoc]⟩, fun ht hp => ?_⟩
  rw [← whole, remaining_of_idle ht, hp]
  simp [offeredFrames]

end Sys2Proof.Machine
end

section
/-!
PROOFS. Encoding: what decoding fixes of a transaction, the opcode table and the unassigned opcodes, the length of a frame by
its format, the reader of the stream, the `describe` rendering and the textual form.
-/

namespace Sys2Proof.Machine

/-! ### Decoding and the opcode table -/

/-- Settles O1: the opcode literal of `encode` picks the instruction's own arm of `decode`, and a slot made of an argument
supplies that argument. -/
theorem decodeOfEncodeIsTheInstruction : Obligations.DecodeOfEncodeIsTheInstruction := by
  intro i
  cases i with
  | handshake | readBaudrate | readStorageMode | sleepMode | refreshAndUpdate | currentDisplayRotation
  | importFontLibrary | importImage | getPallet | clearScreen => rfl
  | setBaudrate | setStorageMode | setCurrentDisplayRotation | setPallet | setEnFontSize | setZhFontSize
  | displayText | drawCircle | fillCircle | drawTriangle | fillTriangle | displayImage =>
    simp [encode, Command.catalog, decode]
  | raw op payload => exact decode_raw rfl

/-- The transaction of a decoded instruction has the selector that was decoded, and its bytes where they are used. -/
theorem encode_of_decode {c : Command} {i : Instr} (h : decode c = .ok i) :
    (encode i).raw = c.raw ∧ (encode i).op = c.op ∧ (usesBytes c = true → (encode i).bytes = c.bytes) := by
  obtain ⟨raw, op, a0, a1, a2, a3, a4, a5, bytes⟩ := c
  unfold decode at h
  split at h
  case isTrue hraw =>
    cases h
    exact ⟨Eq.symm hraw, rfl, fun _ => rfl⟩
  case isFalse hraw =>
    obtain rfl : raw = false := Bool.eq_false_iff.mpr hraw
    dsimp only at h
    split at h <;> cases h <;> exact ⟨rfl, rfl, by simp [usesBytes, encode, Command.catalog]⟩

theorem encode_sel_of_decode {c : Command} {i : Instr} (h : decode c = .ok i) : (encode i).sel = c.sel := by
  obtain ⟨hraw, hop, -⟩ := encode_of_decode h
  rw [Command.sel, Command.sel, hraw, hop]

/-- Whether decoding fails depends on the selector only. -/
theorem decode_error_congr {c d : Command} (hraw : c.raw = d.raw) (hop : c.op = d.op) {e : CmdError} :
    decode c = .error e ↔ decode d = .error e := by
  have hmap (c : Command) : decode c = .error e ↔ (decode c).map Instr.mnemonic = .error e := by
    cases decode c <;> simp [Except.map]
  rw [hmap, hmap d, decode_mnemonic_congr hraw hop]

/-- A catalog transaction fails to decode where the one without arguments does. -/
theorem decode_error_iff_catalog {c : Command} (h : c.raw = false) {e : CmdError} :
    decode c = .error e ↔ decode (.catalog c.op) = .error e :=
  decode_error_congr (d := .catalog c.op) h rfl

/-- Over the 256 opcodes: R79's list is where decoding fails. -/
theorem mem_unassignedOps_iff : ∀ op : Byte,
    op.toNat ∈ unassignedOps ↔ decode (.catalog op) = .error (.argument .opcode) := by decide +kernel

/-- Over the 256 opcodes: where decoding fails, no row of the table takes the selector. -/
theorem no_row_of_decode_error : ∀ op : Byte, decode (.catalog op) = .error (.argument .opcode) →
    (opcodeTable.filter (·.takes (BitVec.ofBool false ++ op))).map (·.mnemonic) = [] := by decide +kernel

/-- The selector of every instruction's transaction is taken by the instruction's own row and by no other. -/
theorem selector_taken_by_own_row (i : Instr) : Laws.SelectorInTable.Statement i := by
  cases i with
  | handshake => exact Laws.SelectorInTable.handshake
  | setBaudrate rate => exact Laws.SelectorInTable.setBaudrate rate
  | readBaudrate => exact Laws.SelectorInTable.readBaudrate
  | readStorageMode => exact Laws.SelectorInTable.readStorageMode
  | setStorageMode mode => exact Laws.SelectorInTable.setStorageMode mode
  | sleepMode => exact Laws.SelectorInTable.sleepMode
  | refreshAndUpdate => exact Laws.SelectorInTable.refreshAndUpdate
  | currentDisplayRotation => exact Laws.SelectorInTable.currentDisplayRotation
  | setCurrentDisplayRotation rotation => exact Laws.SelectorInTable.setCurrentDisplayRotation rotation
  | importFontLibrary => exact Laws.SelectorInTable.importFontLibrary
  | importImage => exact Laws.SelectorInTable.importImage
  | setPallet foreground background => exact Laws.SelectorInTable.setPallet foreground background
  | getPallet => exact Laws.SelectorInTable.getPallet
  | setEnFontSize size => exact Laws.SelectorInTable.setEnFontSize size
  | setZhFontSize size => exact Laws.SelectorInTable.setZhFontSize size
  | displayText x y text => exact Laws.SelectorInTable.displayText x y text
  | drawCircle x y radius => exact Laws.SelectorInTable.drawCircle x y radius
  | fillCircle x y radius => exact Laws.SelectorInTable.fillCircle x y radius
  | drawTriangle x1 y1 x2 y2 x3 y3 => exact Laws.SelectorInTable.drawTriangle x1 y1 x2 y2 x3 y3
  | fillTriangle x1 y1 x2 y2 x3 y3 => exact Laws.SelectorInTable.fillTriangle x1 y1 x2 y2 x3 y3
  | clearScreen => exact Laws.SelectorInTable.clearScreen
  | displayImage x y filename => exact Laws.SelectorInTable.displayImage x y filename
  | raw op payload => exact Laws.SelectorInTable.raw op payload

/-- Settles O4: a transaction that decodes has the selector of its instruction's own transaction, whose one row is the
instruction's; one that does not is a catalog transaction with an opcode in no row. -/
theorem decoderFollowsTheOpcodeTable : Obligations.DecoderFollowsTheOpcodeTable := by
  intro c
  cases hd : decode c with
  | ok i =>
    rw [← encode_sel_of_decode hd]
    exact selector_taken_by_own_row i
  | error e =>
    obtain rfl := decode_error hd
    have hraw : c.raw = false := by
      rw [Bool.eq_false_iff]
      intro hraw
      simp [decode_raw hraw] at hd
    rw [Command.sel, hraw]
    exact no_row_of_decode_error c.op ((decode_error_iff_catalog hraw).mp hd)

/-! ### Unassigned opcodes (R79) -/

theorem unassignedOps_length : unassignedOps.length = 234 := by simp [unassignedOps]

/-- R79 lists the opcodes in rising order, so none of them twice. -/
theorem unassignedOps_nodup : unassignedOps.Nodup := by
  have hrising : unassignedOps.IsChain (· < ·) := by decide +kernel
  exact (List.isChain_iff_pairwise.mp hrising).imp Nat.ne_of_lt

theorem commandFrame_of_decode_error {c : Command} {e : CmdError} (h : decode c = .error e) :
    commandFrame c = .error e := by
  rw [commandFrame, marshal, h]
  rfl

/-- Settles O3: opcode by opcode, R79's list is where decoding fails; and a transaction that fails to decode is rejected by
its accept step. -/
theorem unassignedOpcodeIsAnArgumentError : Obligations.UnassignedOpcodeIsAnArgumentError := by
  refine ⟨unassignedOps_length, unassignedOps_nodup, fun c hraw => ?_⟩
  have hiff : c.op.toNat ∈ unassignedOps ↔ decode c = .error (.argument .opcode) :=
    (mem_unassignedOps_iff c.op).trans (decode_error_iff_catalog hraw).symm
  refine ⟨hiff, fun s hr hi ho hmem => ⟨s.takeError (.argument .opcode), ?_, takeError_rejected s _⟩⟩
  exact step_of_rejected hr hi ho (commandFrame_of_decode_error (hiff.mp hmem))

/-- Settles O5: the decoder run on ten literal selectors. -/
theorem selectorWordsDecodeAsWritten : Obligations.SelectorWordsDecodeAsWritten := by
  unfold Obligations.SelectorWordsDecodeAsWritten
  decide

/-! ### The length of a frame, by format (R78) -/

theorem encodeFrame_eq_ok_iff {op : Byte} {p f : List Byte} :
    encodeFrame op p = .ok f ↔ p.length ≤ maxPayload ∧ f = frameBytes op p := by
  rcases Nat.lt_or_ge maxPayload p.length with hp | hp
  · simp [encodeFrame_of_gt hp, hp]
  · simp [encodeFrame_of_le hp, hp, eq_comm]

/-- A computation that answers has passed its first part. -/
theorem bind_eq_ok {α β : Type} {x : Except CmdError α} {f : α → Except CmdError β} {b : β} (h : x >>= f = .ok b) :
    ∃ a, x = .ok a ∧ f a = .ok b := by
  cases x with
  | error e => cases h
  | ok a => exact ⟨a, rfl, h⟩

theorem marshalEnum_length {op o : Byte} {legal : LegalSet} {d : Int} {a0 : Option Int} {p : List Byte}
    (h : marshalEnum op legal d a0 = .ok (o, p)) : p.length = 1 := by
  obtain ⟨v, -, h⟩ := bind_eq_ok h
  cases h
  rfl

theorem marshalPalette_length {op o : Byte} {dfg dbg : Int} {a0 a1 : Option Int} {p : List Byte}
    (h : marshalPalette op dfg dbg a0 a1 = .ok (o, p)) : p.length = 2 := by
  obtain ⟨fg, -, h⟩ := bind_eq_ok h
  obtain ⟨bg, -, h⟩ := bind_eq_ok h
  cases h
  rfl

theorem marshalU32_length {op o : Byte} {a0 : Option Int} {p : List Byte} (h : marshalU32 op a0 = .ok (o, p)) :
    p.length = 4 := by
  obtain ⟨v, -, h⟩ := bind_eq_ok h
  cases h
  rfl

theorem marshal3U16_length {op o : Byte} {a0 a1 a2 : Option Int} {p : List Byte}
    (h : marshal3U16 op a0 a1 a2 = .ok (o, p)) : p.length = 6 := by
  obtain ⟨v0, -, h⟩ := bind_eq_ok h
  obtain ⟨v1, -, h⟩ := bind_eq_ok h
  obtain ⟨v2, -, h⟩ := bind_eq_ok h
  cases h
  rfl

theorem marshal6U16_length {op o : Byte} {a0 a1 a2 a3 a4 a5 : Option Int} {p : List Byte}
    (h : marshal6U16 op a0 a1 a2 a3 a4 a5 = .ok (o, p)) : p.length = 12 := by
  obtain ⟨v0, -, h⟩ := bind_eq_ok h
  obtain ⟨v1, -, h⟩ := bind_eq_ok h
  obtain ⟨v2, -, h⟩ := bind_eq_ok h
  obtain ⟨v3, -, h⟩ := bind_eq_ok h
  obtain ⟨v4, -, h⟩ := bind_eq_ok h
  obtain ⟨v5, -, h⟩ := bind_eq_ok h
  cases h
  rfl

theorem marshalXyStr_length {op o : Byte} {a0 a1 : Option Int} {bytes p : List Byte}
    (h : marshalXyStr op a0 a1 bytes = .ok (o, p)) : p.length = bytes.length + 5 := by
  obtain ⟨x, -, h⟩ := bind_eq_ok h
  obtain ⟨y, -, h⟩ := bind_eq_ok h
  cases h
  simp only [payloadXyStr, List.length_append, be16_length, List.length_singleton]
  omega

/-- The payload of an instruction and the frame's overhead make up R78's length for the instruction's transaction. -/
theorem marshalInstr_length {i : Instr} {op : Byte} {p : List Byte} (h : marshalInstr i = .ok (op, p)) :
    p.length + 9 = frameLength (encode i) := by
  cases i with
  | handshake | readBaudrate | readStorageMode | sleepMode | refreshAndUpdate | currentDisplayRotation
  | importFontLibrary | importImage | getPallet | clearScreen | raw =>
    cases h
    rfl
  | setStorageMode | setCurrentDisplayRotation | setEnFontSize | setZhFontSize => exact congrArg (· + 9) (marshalEnum_length h)
  | setPallet => exact congrArg (· + 9) (marshalPalette_length h)
  | setBaudrate => exact congrArg (· + 9) (marshalU32_length h)
  | drawCircle | fillCircle => exact congrArg (· + 9) (marshal3U16_length h)
  | drawTriangle | fillTriangle => exact congrArg (· + 9) (marshal6U16_length h)
  | displayText | displayImage => exact congrArg (· + 9) (marshalXyStr_length h)

/-- R78 reads the selector, and BYTES of those transactions only that use them. -/
theorem frameLength_congr {c d : Command} (hraw : c.raw = d.raw) (hop : c.op = d.op)
    (hbytes : usesBytes d = true → c.bytes = d.bytes) : frameLength c = frameLength d := by
  rw [usesBytes] at hbytes
  unfold frameLength
  rw [hraw, hop]
  split
  case isTrue h => rw [hbytes (by simp [h])]
  case isFalse h => split <;> simp_all

/-- Settles O9: a transaction with a frame decodes to an instruction, whose payload has the length of its format. -/
theorem frameLengthByFormat : Obligations.FrameLengthByFormat := by
  intro c f h
  obtain ⟨⟨op, p⟩, hm, hf⟩ := bind_eq_ok h
  obtain ⟨i, hd, hi⟩ := bind_eq_ok hm
  obtain ⟨-, rfl⟩ := encodeFrame_eq_ok_iff.mp hf
  obtain ⟨hraw, hop, hbytes⟩ := encode_of_decode hd
  rw [frameBytes_length, marshalInstr_length hi, frameLength_congr hraw hop hbytes]

/-! ### The reader of the stream (R71) -/

/-- A stream whose LENGTH field is the length of its first part splits after that part. -/
theorem nextFrame_append {b hi lo : Byte} {tail rest : List Byte} (hmin : frameOverhead ≤ (b :: hi :: lo :: tail).length)
    (hlen : hi.toNat * 256 + lo.toNat = (b :: hi :: lo :: tail).length) :
    nextFrame (b :: hi :: lo :: tail ++ rest) = some (b :: hi :: lo :: tail, rest) := by
  have hfit : (b :: hi :: lo :: tail).length ≤ (b :: hi :: lo :: tail ++ rest).length := by simp
  change (if frameOverhead ≤ hi.toNat * 256 + lo.toNat ∧ _ then _ else _) = _
  rw [hlen, if_pos ⟨hmin, hfit⟩]
  exact congrArg some (Prod.ext List.take_left List.drop_left)

/-- The frame behind its LENGTH field (R100). -/
theorem frameBytes_eq_cons (op : Byte) (p : List Byte) : ∃ tail, frameBytes op p =
    header :: BitVec.ofNat 8 ((p.length + 9) / 256) :: BitVec.ofNat 8 (p.length + 9) :: tail := by
  have hlen : be16 ((p.length + frameOverhead : Nat) : Int) =
      [BitVec.ofNat 8 ((p.length + 9) / 256), BitVec.ofNat 8 (p.length + 9)] := be16_natCast _
  exact ⟨_, by rw [frameBytes, frameBody, hlen]; rfl⟩

/-- Settles O10: LENGTH, most significant byte first, is the length of the frame, and 16 bits hold it. -/
theorem readerFindsEachFrame : Obligations.ReaderFindsEachFrame := by
  intro op p f rest h
  obtain ⟨hp, rfl⟩ := encodeFrame_eq_ok_iff.mp h
  have hlength := frameBytes_length op p
  obtain ⟨tail, hcons⟩ := frameBytes_eq_cons op p
  rw [hcons] at hlength ⊢
  refine nextFrame_append (by rw [hlength, frameOverhead]; omega) ?_
  rw [hlength, BitVec.toNat_ofNat, BitVec.toNat_ofNat]
  rw [maxPayload] at hp
  omega

/-! ### The rendering (R90) -/

theorem describeChars_cons_cons (b c : Byte) (rest : List Byte) :
    describeChars (b :: c :: rest) = hex2 b ++ ' ' :: describeChars (c :: rest) := rfl

theorem describeChars_eq_intercalate (bytes : List Byte) : describeChars bytes = [' '].intercalate (bytes.map hex2) := by
  induction bytes with
  | nil => rfl
  | cons b rest ih =>
    cases rest with
    | nil => simp [describeChars]
    | cons c rest => rw [describeChars_cons_cons, ih]; simp [List.intercalate_cons_cons]

theorem hexDigit_eq : ∀ d : BitVec 4, hexDigit d = "0123456789ABCDEF".toList[d.toNat]! := by decide

theorem toNat_high_nibble (b : Byte) : (b.extractLsb' 4 4).toNat = b.toNat / 16 := by
  rw [BitVec.extractLsb'_toNat, Nat.shiftRight_eq_div_pow]
  omega

theorem toNat_low_nibble (b : Byte) : (b.extractLsb' 0 4).toNat = b.toNat % 16 := by
  simp [BitVec.extractLsb'_toNat]

/-- A byte's pair of digits, by division (R90). -/
theorem hex2_eq (b : Byte) :
    hex2 b = ["0123456789ABCDEF".toList[b.toNat / 16]!, "0123456789ABCDEF".toList[b.toNat % 16]!] := by
  rw [hex2, hexDigit_eq, hexDigit_eq, toNat_high_nibble, toNat_low_nibble]

/-- Settles O11: the model's characters are its digit pairs joined by a space, and each pair is the byte's quotient and
remainder by 16. -/
theorem describeRendersHexPairs : Obligations.DescribeRendersHexPairs := by
  refine ⟨rfl, fun bytes => ?_, by decide⟩
  rw [describe, describeChars_eq_intercalate, ← String.toList_inj, String.toList_ofList, String.toList_intercalate,
    List.map_map]
  exact congrArg [' '].intercalate (List.map_congr_left fun b _ => by simp [hex2_eq])

theorem hexDigit_injective : ∀ d e : BitVec 4, hexDigit d = hexDigit e → d = e := by decide

theorem hex2_injective {b c : Byte} (h : hex2 b = hex2 c) : b = c := by
  simp only [hex2, List.cons.injEq, and_true] at h
  obtain ⟨hhigh, hlow⟩ := h
  have high := congrArg BitVec.toNat (hexDigit_injective _ _ hhigh)
  have low := congrArg BitVec.toNat (hexDigit_injective _ _ hlow)
  rw [toNat_high_nibble, toNat_high_nibble] at high
  rw [toNat_low_nibble, toNat_low_nibble] at low
  exact BitVec.eq_of_toNat_eq (by omega)

/-- The first pair of digits has a fixed length, so it and what follows it can be read off the characters. -/
theorem describeChars_injective : ∀ {a b : List Byte}, describeChars a = describeChars b → a = b
  | [], [], _ => rfl
  | [b], [c], h => congrArg ([·]) (hex2_injective h)
  | b :: b' :: rest, c :: c' :: rest', h => by
    rw [describeChars_cons_cons, describeChars_cons_cons] at h
    obtain ⟨hhead, htail⟩ := List.append_inj h rfl
    rw [hex2_injective hhead, describeChars_injective (List.cons.inj htail).2]
  | [], [_], h | [_], [], h | [], _ :: _ :: _, h | _ :: _ :: _, [], h | [_], _ :: _ :: _, h | _ :: _ :: _, [_], h => by
    simp [describeChars, hex2] at h

/-- Settles O13: the characters determine the bytes, pair by pair. -/
theorem describeLosesNothing : Obligations.DescribeLosesNothing :=
  fun _ _ h => describeChars_injective (String.ofList_injective h)

/-! ### The textual form and the defaults (R82, R83) -/

/-- Settles O12: the reader run on seven literal texts. -/
theorem textFormReadsAsWritten : Obligations.TextFormReadsAsWritten := by
  unfold Obligations.TextFormReadsAsWritten
  decide

/-- A default that is itself legal may as well be supplied (R83, R131). -/
theorem arg_default_eq_supplied (k : Fin 6) {legal : LegalSet} {d : Int} (h : legal.admits d = true) :
    arg k legal (some d) none = arg k legal (some d) (some d) := by
  rw [arg_absent_default, arg_present, h]
  rfl

theorem marshalEnum_default (op : Byte) {legal : LegalSet} {d : Int} (h : legal.admits d = true) :
    marshalEnum op legal d none = marshalEnum op legal d (some d) := by
  rw [marshalEnum, marshalEnum, arg_default_eq_supplied 0 h]

theorem marshalPalette_default (op : Byte) {dfg dbg : Int} (hfg : colours.admits dfg = true)
    (hbg : colours.admits dbg = true) :
    marshalPalette op dfg dbg none none = marshalPalette op dfg dbg (some dfg) (some dbg) := by
  rw [marshalPalette, marshalPalette, arg_default_eq_supplied 0 hfg, arg_default_eq_supplied 1 hbg]

theorem exec_congr {i j : Instr} (h : marshalInstr i = marshalInstr j) (s : State) : exec i s = exec j s := by
  rw [exec_eq_accept, exec_eq_accept, h]

/-- Settles O26: each default is in its legal set, so leaving the argument out marshals as supplying it. -/
theorem defaultsEqualExplicitArguments : Obligations.DefaultsEqualExplicitArguments := by
  intro s
  refine ⟨exec_congr ?_ s, exec_congr ?_ s, exec_congr ?_ s, exec_congr ?_ s, exec_congr ?_ s⟩
  · exact marshalPalette_default 0x10 (by decide : colours.admits defaultFg = true) (by decide : colours.admits defaultBg = true)
  · exact marshalEnum_default 0x1E (by decide : fontSizes.admits defaultFontSize = true)
  · exact marshalEnum_default 0x1F (by decide : fontSizes.admits defaultFontSize = true)
  · exact marshalEnum_default 0x07 (by decide : storageModes.admits defaultStorage = true)
  · exact marshalEnum_default 0x0D (by decide : rotations.admits defaultRotation = true)

end Sys2Proof.Machine
end

section
/-!
PROOFS. The frame: its layout and the laws that follow from it (R100, R102, R107).
-/

namespace Sys2Proof.Machine

/-! ### The layout (R100) -/

/-- The frame up to its checksum, LENGTH by quotient and remainder (R52, R100). -/
theorem frameBody_eq (op : Byte) (p : List Byte) : frameBody op p =
    [0xA5, BitVec.ofNat 8 ((p.length + 9) / 256), BitVec.ofNat 8 ((p.length + 9) % 256), op] ++ p
      ++ [0xCC, 0x33, 0xC3, 0x3C] := by
  have hlo : BitVec.ofNat 8 ((p.length + 9) % 256) = BitVec.ofNat 8 (p.length + 9) := by
    apply BitVec.eq_of_toNat_eq
    simp
  rw [frameBody, be16_natCast, hlo]
  rfl

/-- Settles O6: a payload that fits is framed, and the frame is its body and the body's XOR. -/
theorem frameIsLaidOutAsSpecified : Obligations.FrameIsLaidOutAsSpecified := by
  intro op p hp
  rw [encodeFrame_of_le hp, frameBytes, frameBody_eq]

/-- The frame, its first four bytes one by one (R100). -/
theorem frameBytes_eq (op : Byte) (p : List Byte) : frameBytes op p =
    0xA5 :: BitVec.ofNat 8 ((p.length + 9) / 256) :: BitVec.ofNat 8 ((p.length + 9) % 256) :: op ::
      (p ++ (footer ++ [xorFold (frameBody op p)])) := by
  rw [frameBytes, frameBody_eq]
  simp [footer]

/-! ### The length bound (R102) -/

theorem encodeFrame_eq_error_iff {op : Byte} {p : List Byte} :
    encodeFrame op p = .error .encoding ↔ maxPayload < p.length := by
  rcases Nat.lt_or_ge maxPayload p.length with hp | hp
  · simp [encodeFrame_of_gt hp, hp]
  · simp [encodeFrame_of_le hp, hp]

/-- Settles O7: the length is the one check of `encode_frame`, and an accept that fails it is rejected. -/
theorem oversizePayloadIsAnEncodingError : Obligations.OversizePayloadIsAnEncodingError := by
  refine ⟨fun _ _ => encodeFrame_eq_error_iff, fun s c op p hr hi ho hm hp => ?_⟩
  refine ⟨s.takeError .encoding, ?_, takeError_rejected s .encoding⟩
  rw [step_of_offer hr hi ho, hm, accept_long hi op hp]

/-! ### The checksum under a change of one byte (R107) -/

theorem xorFold_set {l : List Byte} {i : Nat} {a : Byte} (b : Byte) (h : l[i]? = some a) :
    xorFold (l.set i b) = xorFold l ^^^ (a ^^^ b) := by
  induction l generalizing i with
  | nil => simp at h
  | cons x rest ih =>
    cases i with
    | zero =>
      obtain rfl : x = a := by simpa using h
      simp only [List.set_cons_zero, xorFold_cons]
      rw [BitVec.xor_comm, ← BitVec.xor_assoc, BitVec.xor_comm x]
      simp
    | succ i =>
      rw [List.set_cons_succ, xorFold_cons, xorFold_cons, ih (by simpa using h), BitVec.xor_assoc]

theorem xorFold_set_ne {l : List Byte} {i : Nat} {a b : Byte} (h : l[i]? = some a) (hab : a ≠ b) :
    xorFold (l.set i b) ≠ xorFold l := by
  rw [xorFold_set b h]
  simpa [BitVec.xor_eq_zero_iff] using hab

/-- Changing one byte of a sequence that ends in its own XOR changes that byte and the XOR. -/
theorem set_append_xorFold_ne_iff {l : List Byte} {i : Nat} {a b : Byte} (h : l[i]? = some a) (hab : a ≠ b) (j : Nat) :
    (l.set i b ++ [xorFold (l.set i b)])[j]? ≠ (l ++ [xorFold l])[j]? ↔ j = i ∨ j = l.length := by
  obtain ⟨hi, rfl⟩ := List.getElem?_eq_some_iff.mp h
  rcases Nat.lt_trichotomy j l.length with hj | rfl | hj
  · rw [List.getElem?_append_left (by simpa using hj), List.getElem?_append_left hj, List.getElem?_set]
    by_cases hij : i = j
    · subst hij
      simpa [hi] using hab.symm
    · simp [hij, Ne.symm hij, hj.ne]
  · simpa using xorFold_set_ne h hab
  · simp [hj.ne', (hi.trans hj).ne', List.getElem?_eq_none, Nat.succ_le_of_lt hj]

/-- Changing a payload byte changes the same byte of the frame's body: LENGTH stays. -/
theorem frameBody_set (op : Byte) (p : List Byte) {k : Nat} (hk : k < p.length) (b : Byte) :
    frameBody op (p.set k b) = (frameBody op p).set (4 + k) b := by
  rw [frameBody_eq, frameBody_eq, List.length_set, List.append_assoc, List.append_assoc,
    List.set_append_right _ _ (by simp), List.set_append_left _ _ (by simpa using hk)]
  simp

theorem frameBody_getElem?_payload (op : Byte) {p : List Byte} {k : Nat} (hk : k < p.length) :
    (frameBody op p)[4 + k]? = some p[k] := by
  rw [frameBody_eq, List.append_assoc, List.getElem?_append_right (by simp), List.getElem?_append_left (by simpa using hk)]
  simp

/-- Item 6 of R107. -/
theorem frameBytes_set_ne_iff (op : Byte) {p : List Byte} {k : Nat} {b : Byte} (hk : k < p.length) (hb : p[k]? ≠ some b)
    (j : Nat) : (frameBytes op (p.set k b))[j]? ≠ (frameBytes op p)[j]? ↔ j = 4 + k ∨ j = p.length + 8 := by
  have hne : p[k] ≠ b := fun e => hb (List.getElem?_eq_some_iff.mpr ⟨hk, e⟩)
  rw [frameBytes, frameBytes, frameBody_set op p hk, ← frameBody_length op p]
  exact set_append_xorFold_ne_iff (frameBody_getElem?_payload op hk) hne j

/-! ### The six laws (R107) -/

theorem xorFold_footer : xorFold [0xCC, 0x33, 0xC3, 0x3C] = 0x00 := by decide

/-- The checksum without the footer (R107). -/
theorem xorFold_frameBody (op : Byte) (p : List Byte) : xorFold (frameBody op p) =
    0xA5 ^^^ BitVec.ofNat 8 ((p.length + 9) / 256) ^^^ BitVec.ofNat 8 ((p.length + 9) % 256) ^^^ op ^^^ xorFold p := by
  rw [frameBody_eq, xorFold_append, xorFold_append, xorFold_footer]
  simp [xorFold_cons, BitVec.xor_assoc]

/-- The frame's last byte and the bytes before it (R100). -/
theorem frameBytes_split (op : Byte) (p : List Byte) : (frameBytes op p)[p.length + 8]? = some (xorFold (frameBody op p)) ∧
    (frameBytes op p).take (p.length + 8) = frameBody op p := by
  rw [frameBytes, ← frameBody_length op p]
  exact ⟨by simp, List.take_left⟩

/-- Settles O8: items 1 to 5 are read off the frame's layout, item 6 is `frameBytes_set_ne_iff`. -/
theorem frameLaws : Obligations.FrameLaws := by
  intro op p f h
  obtain ⟨hp, rfl⟩ := encodeFrame_eq_ok_iff.mp h
  rw [maxPayload] at hp
  have hcons := frameBytes_eq op p
  have hdrop : (frameBytes op p).drop 4 = p ++ (footer ++ [xorFold (frameBody op p)]) := congrArg (List.drop 4) hcons
  obtain ⟨hlast, hinit⟩ := frameBytes_split op p
  have hend : p.length + 9 - 1 = p.length + 8 := rfl
  have hfoot : p.length + 9 - 5 = 4 + p.length := by omega
  rw [frameBytes_length, hend, hfoot, hlast, hinit, ← List.drop_drop, hdrop]
  refine ⟨⟨rfl, _, _, congrArg (·[1]?) hcons, congrArg (·[2]?) hcons, ?_⟩,
    ⟨congrArg (·[0]?) hcons, congrArg (·[3]?) hcons, List.take_left, ?_⟩, rfl, ?_,
    ⟨xorFold_footer, congrArg some (xorFold_frameBody op p)⟩, fun k b g hk hb hg => ?_⟩
  · rw [BitVec.toNat_ofNat, BitVec.toNat_ofNat]; omega
  · rw [List.drop_left]; rfl
  · rw [frameBytes, xorFold_append, xorFold_singleton, BitVec.xor_self]; rfl
  · obtain ⟨-, rfl⟩ := encodeFrame_eq_ok_iff.mp hg
    exact ⟨by rw [frameBytes_length, List.length_set], frameBytes_set_ne_iff op hk hb⟩

end Sys2Proof.Machine
end

section
/-!
PROOFS. One step: what each kind of step writes, where an error arises, the emit step's case table, and the reset in mid-frame.
-/

namespace Sys2Proof.Machine

/-! ### Legal states step to legal states (R35) -/

/-- Settles O45: the case split over the kinds of step is `LegalState.step`. -/
theorem legalStateIsKept : Obligations.LegalStateIsKept := fun _ _ hs h => hs.step h

/-- Settles O49: a step stops only where a busy state offers no byte, and a legal one offers a byte. -/
theorem legalStateAlwaysSteps : Obligations.LegalStateAlwaysSteps := by
  intro s hs
  rcases step_next_or_fault s with hnext | ⟨-, hb, -, hnone, -⟩
  · exact hnext
  · obtain ⟨b, ho, -⟩ := outData_isSome hs hb
    simp [hnone] at ho

/-! ### Who writes what (R38, R198) -/

theorem kindOf_statusOk : kindOf statusOk = 0 := kindOf_packStatus kindOk 0

theorem fieldOf_statusOk : fieldOf statusOk = 0 := fieldOf_packStatus kindOk 0

/-- Settles O30: a reset and a latch write STATUS OK, an emit step and a stall keep it, and an error is taken in IDLE. -/
theorem errorsAriseOnlyInIdle : Obligations.ErrorsAriseOnlyInIdle := by
  intro s t h
  rcases step_cases h with ⟨hr, rfl⟩ | ⟨hr, hi, c, ho, hacc⟩ | ⟨-, -, -, b, -, rfl⟩ | ⟨-, -, rfl⟩
  · exact ⟨fun _ hk => absurd kindOf_statusOk hk, fun _ hr' => by simp [hr] at hr'⟩
  · refine ⟨fun _ hk => ?_, fun hb => absurd hi hb⟩
    rcases hacc with ⟨e, -, rfl⟩ | ⟨op, p, -, -, -, rfl⟩
    · exact ⟨hi, hi, c, State.action_of_offer hr hi ho⟩
    · exact absurd kindOf_statusOk hk
  · exact ⟨fun hst => absurd (s.afterEmit_status b) hst, fun _ _ => s.afterEmit_status b⟩
  · exact ⟨fun hst => absurd rfl hst, fun _ _ => rfl⟩

theorem State.action_of_reset {s : State} (hr : s.rst = true) : s.action = .reset := by simp [State.action, hr]

theorem State.action_of_ready {s : State} (hr : s.rst = false) (hb : s.phase ≠ .idle) (ho : s.outReady = true) :
    s.action = .emit := by simp [State.action, State.cmdReady, hr, hb, ho]

theorem State.action_of_stall {s : State} (hr : s.rst = false)
    (hs : (s.phase = .idle ∧ s.offered = none) ∨ (s.phase ≠ .idle ∧ s.outReady = false)) : s.action = .stall := by
  rcases hs with ⟨hi, ho⟩ | ⟨hb, ho⟩
  · simp [State.action, State.cmdReady, hr, hi, ho]
  · simp [State.action, State.cmdReady, hr, hb, ho]

/-- Settles O34: each kind of step, by the update it makes. -/
theorem whoWritesWhat : Obligations.WhoWritesWhat := by
  intro s t h
  rcases step_cases h with ⟨hr, rfl⟩ | ⟨hr, hi, c, ho, hacc⟩ | ⟨hr, hb, hready, b, -, rfl⟩ | ⟨hr, hstall, rfl⟩
  · rw [State.action_of_reset hr]
    exact ⟨rfl, rfl, rfl, rfl, rfl, rfl, kindOf_statusOk, fieldOf_statusOk⟩
  · rw [State.action_of_offer hr hi ho]
    rcases hacc with ⟨e, hf, rfl⟩ | ⟨op, p, hm, hp, -, rfl⟩
    · exact ⟨_, rfl, .inr ⟨e, hf, takeError_rejected s e⟩⟩
    · exact ⟨_, rfl, .inl ⟨op, p, hm, hp, latch_accepted s op hp, s.latch_pbufByte_of_ge op p⟩⟩
  · rw [State.action_of_ready hr hb hready]
    simp
  · rw [State.action_of_stall hr hstall]

/-! ### The emit step (R111) -/

theorem step_of_emitted {s : State} {b : Byte} (hr : s.rst = false) (hb : s.phase ≠ .idle) (hready : s.outReady = true)
    (ho : s.outData = some b) : step s = .next ((s.afterEmit b).tick false) := by
  rw [step_of_ready hr hb hready, State.emit, ho]
  rfl

/-- A 16-bit register holds a number where its value is that number. -/
theorem eq_ofNat_iff_toNat {x : BitVec 16} {n : Nat} (hn : n < 65536) : x = BitVec.ofNat 16 n ↔ x.toNat = n := by
  rw [← BitVec.toNat_inj, BitVec.toNat_ofNat, Nat.mod_eq_of_lt hn]

/-- Settles O37: the sequencer's case table, with IDX as a number; and in IDLE only a reset and an accept that starts
a frame write CHK. -/
theorem emitStepResult : Obligations.EmitStepResult := by
  refine ⟨fun s hs hb hr hready => ?_, fun s t hi hr h ht => ?_⟩
  · obtain ⟨b, ho, -⟩ := outData_isSome hs hb
    refine ⟨b, _, ho, step_of_emitted hr hb hready ho, by simp [State.afterEmit_env, State.outLast],
      by simp [State.afterEmit_chk], ?_, by simp⟩
    rw [State.tick_phase, State.tick_idx, State.afterEmit_phase, State.afterEmit_idx]
    cases hph : s.phase with
    | idle => exact hb hph
    | header | lenHi | lenLo | checksum => simp [State.sequence, hph]
    | opcode =>
      have h0 : s.plen = 0 ↔ s.plen.toNat = 0 := eq_ofNat_iff_toNat (by decide)
      simp only [State.sequence, hph, h0, and_self]
    | payload =>
      have hsucc := toNat_add_one_of_lt (hs.payload_idx hph).2 (hs.plen_le.trans (by decide))
      by_cases hend : s.idx.toNat + 1 = s.plen.toNat
      · simp [State.sequence, hph, hend]
      · simp only [State.sequence, hph, if_neg hend, hsucc, and_self]
    | footer =>
      have hsucc := toNat_add_one_of_lt (Nat.lt_succ_of_le (hs.footer_idx hph)) (by decide)
      have h3 : s.idx = 3 ↔ s.idx.toNat = 3 := eq_ofNat_iff_toNat (by decide)
      by_cases hend : s.idx.toNat = 3
      · simp only [State.sequence, hph, if_pos hend, if_pos (h3.mpr hend), and_self]
      · simp only [State.sequence, hph, if_neg hend, if_neg (mt h3.mp hend), hsucc, and_self]
  · rcases step_cases h with ⟨hr', -⟩ | ⟨-, -, c, -, ⟨e, -, rfl⟩ | ⟨op, p, -, -, -, rfl⟩⟩ | ⟨-, hb, -⟩ | ⟨-, -, rfl⟩
    · simp [hr] at hr'
    · rfl
    · simp at ht
    · exact absurd hi hb
    · rfl

/-! ### A reset in mid-frame (R210, R211) -/

/-- Settles O41: item 5 of R35 gives the bytes sent, and the reset step touches neither them nor the offers. -/
theorem resetAbandonsTheFrame : Obligations.ResetAbandonsTheFrame := by
  intro s hs hb hr
  obtain ⟨earlier, emitted, hstream, rfl, -⟩ := hs.chk_eq hb
  refine ⟨position_lt hs, s.resetStep.tick false, earlier, step_of_reset hr, hstream, rfl, rfl, rfl, rfl, ?_⟩
  have hframes : offeredFrames (s.resetStep.tick false).env.producer = offeredFrames s.env.producer :=
    offeredFrames_not_taken s.env.producer
  have hrem : (s.resetStep.tick false).remaining = [] := remaining_of_idle rfl
  rw [hframes, hrem, List.append_nil, ← hstream]
  rfl

/-! ### The accept step (R105, R134) -/

/-- Settles O44: whether a frame starts, and which, is `commandFrame` of the transaction. -/
theorem frameDependsOnTheCommandAlone : Obligations.FrameDependsOnTheCommandAlone := by
  intro s s' t t' c hi hi' hr hr' ho ho' h h'
  rcases accept_cases hi (marshal c) with ⟨e, hf, -⟩ | ⟨op, p, hm, hp, hf, -⟩
  · rw [step_of_rejected hr hi ho hf] at h
    rw [step_of_rejected hr' hi' ho' hf] at h'
    cases h
    cases h'
    exact ⟨hi.trans hi'.symm, rfl, fun hh => by simp [hi] at hh⟩
  · rw [step_of_accepted hr hi ho hm hp] at h
    rw [step_of_accepted hr' hi' ho' hm hp] at h'
    cases h
    cases h'
    rw [tick_frame, tick_frame, latch_frame s op hp, latch_frame s' op hp]
    exact ⟨rfl, rfl, fun _ => ⟨rfl, hf⟩⟩

end Sys2Proof.Machine
end

section
/-!
PROOFS. A frame in flight: what `k` emit steps from its start have sent, and what one accept step and the emit steps after it send
(R112, R113, R114).
-/

namespace Sys2Proof.Machine

/-! ### The phase by the place in the frame (R112) -/

/-- Outside IDLE the position names the phase. -/
theorem phase_eq_phaseAt {s : State} (h : LegalState s) (hb : s.phase ≠ .idle) :
    s.phase = phaseAt s.plen.toNat s.position := by
  unfold State.position phaseAt
  cases hph : s.phase with
  | idle => exact absurd hph hb
  | header | lenHi | lenLo | opcode => simp
  | payload =>
    have hidx := (h.payload_idx hph).2
    grind
  | footer =>
    have hidx := h.footer_idx hph
    grind
  | checksum => grind

theorem phaseAt_end (n : Nat) : phaseAt n (n + 9) = .idle := by
  unfold phaseAt
  grind

/-- The sequencer keeps PHASE or follows an arrow of R112. -/
theorem sequence_phase_arrow {s : State} (hb : s.phase ≠ .idle) : s.sequence.phase = s.phase ∨
    (s.phase, s.sequence.phase) ∈ [(Phase.idle, Phase.header), (.header, .lenHi), (.lenHi, .lenLo), (.lenLo, .opcode),
      (.opcode, .payload), (.opcode, .footer), (.payload, .footer), (.footer, .checksum), (.checksum, .idle)] := by
  unfold State.sequence
  cases hph : s.phase with
  | idle => exact absurd hph hb
  | header | lenHi | lenLo | checksum => simp
  | opcode | payload | footer => dsimp only; split <;> simp

/-! ### The transfers of a frame -/

@[simp] theorem frameTransfers_length (f : List Byte) : (frameTransfers f).length = f.length := by simp [frameTransfers]

theorem frameTransfers_getElem? (f : List Byte) (k : Nat) :
    (frameTransfers f)[k]? = f[k]?.map fun b => ⟨b, decide (k + 1 = f.length)⟩ := by simp [frameTransfers]

@[simp] theorem frameTransfers_data (f : List Byte) : (frameTransfers f).map (·.data) = f :=
  List.ext_getElem (by simp) fun j _ _ => by simp [frameTransfers]

/-- The last place of the frame is the checksum's. -/
theorem position_last_iff {s : State} (h : LegalState s) (hb : s.phase ≠ .idle) :
    s.position + 1 = s.frame.length ↔ s.phase = .checksum := by
  rcases sequence_position h hb with ⟨hc, -, hend⟩ | ⟨hc, -, hnext⟩
  · exact iff_of_true hend hc
  · obtain ⟨b, ho, -⟩ := outData_isSome h hb
    have hlt := position_lt (h.afterEmit hb ho)
    rw [afterEmit_position, afterEmit_frame, hnext] at hlt
    exact iff_of_false hlt.ne hc

/-- The transfer of the byte on offer is the frame's transfer at the position reached (R31, R113). -/
theorem frameTransfers_position {s : State} {b : Byte} (h : LegalState s) (hb : s.phase ≠ .idle) (ho : s.outData = some b) :
    (frameTransfers s.frame)[s.position]? = some ⟨b, s.outLast⟩ := by
  rw [frameTransfers_getElem?, ← outData_eq h hb, ho, State.outLast, decide_eq_decide.mpr (position_last_iff h hb)]
  rfl

/-! ### After `k` emit steps -/

/-- `t` has moved the first `k` bytes of the frame that `s` is at the start of, and nothing else has changed. -/
structure Sent (s : State) (k : Nat) (t : State) : Prop where
  legal : LegalState t
  frame : t.frame = s.frame
  plen : t.plen = s.plen
  status : t.status = s.status
  received : t.env.received = s.env.received ++ (frameTransfers s.frame).take k
  /-- Until the last byte has been moved, `k` is the place in the frame. -/
  busy : k < s.frame.length → t.phase ≠ .idle ∧ t.position = k
  done : k = s.frame.length → t.phase = .idle

/-- A legal state in HEADER has sent nothing of its frame. -/
theorem Sent.start {s : State} (h : LegalState s) (hh : s.phase = .header) : Sent s 0 s where
  legal := h
  frame := rfl
  plen := rfl
  status := rfl
  received := by simp
  busy _ := by simp [hh, State.position]
  done h0 := by simp at h0

theorem Sent.tick {s t : State} {k : Nat} (h : Sent s k t) (taken : Bool) : Sent s k (t.tick taken) :=
  ⟨h.legal.tick taken, h.frame, h.plen, h.status, h.received, h.busy, h.done⟩

/-- An emit step sends the next byte. -/
theorem Sent.emit {s t : State} {k : Nat} (h : Sent s k t) (hk : k < s.frame.length) :
    ∃ b, t.outData = some b ∧ Sent s (k + 1) (t.afterEmit b) := by
  obtain ⟨hb, hpos⟩ := h.busy hk
  obtain ⟨b, ho, -⟩ := outData_isSome h.legal hb
  refine ⟨b, ho, ?_⟩
  constructor
  case legal => exact h.legal.afterEmit hb ho
  case frame => rw [afterEmit_frame, h.frame]
  case plen => rw [State.afterEmit_plen, h.plen]
  case status => rw [State.afterEmit_status, h.status]
  case received =>
    have hnext := frameTransfers_position h.legal hb ho
    rw [h.frame, hpos] at hnext
    rw [State.afterEmit_env, h.received, List.take_add_one, hnext, List.append_assoc]
    rfl
  case busy =>
    intro hk'
    rw [State.afterEmit_phase, afterEmit_position]
    rcases sequence_position h.legal hb with ⟨-, -, hend⟩ | ⟨-, hbusy, hnext⟩
    · rw [h.frame] at hend; omega
    · exact ⟨hbusy, by rw [hnext, hpos]⟩
  case done =>
    intro hk'
    rw [State.afterEmit_phase]
    have hc := (position_last_iff h.legal hb).mp (by rw [hpos, h.frame, hk'])
    simp only [State.sequence, hc]

/-- CHK is the XOR of the bytes sent (R111). -/
theorem Sent.chk {s t : State} {k : Nat} (h : Sent s k t) (hk : k < s.frame.length) : t.chk = xorFold (s.frame.take k) := by
  obtain ⟨hb, hpos⟩ := h.busy hk
  obtain ⟨earlier, emitted, -, rfl, hchk⟩ := h.legal.chk_eq hb
  rw [hchk, h.frame, hpos]

/-- R112: the phase is the one at place `k` of the sequence. -/
theorem Sent.phase {s t : State} {k : Nat} (h : Sent s k t) (hk : k ≤ s.frame.length) :
    t.phase = phaseAt s.plen.toNat k := by
  rcases Nat.lt_or_eq_of_le hk with hlt | rfl
  · obtain ⟨hb, hpos⟩ := h.busy hlt
    rw [phase_eq_phaseAt h.legal hb, hpos, h.plen]
  · rw [h.done rfl, frame_length, phaseAt_end]

theorem emits_succ {s : State} {b : Byte} (n : Nat) (ho : s.outData = some b) :
    emits (n + 1) s = emits n (s.afterEmit b) := by
  rw [emits, State.emit, ho]

/-- As many emit steps as bytes are left succeed, and send that many bytes. -/
theorem Sent.emits {s : State} (n : Nat) {k : Nat} {t : State} (h : Sent s k t) (hn : k + n ≤ s.frame.length) :
    ∃ u, Machine.emits n t = .next u ∧ Sent s (k + n) u := by
  induction n generalizing k t with
  | zero => exact ⟨t, rfl, h⟩
  | succ n ih =>
    obtain ⟨b, ho, hnext⟩ := h.emit (by omega)
    rw [emits_succ n ho, ← Nat.add_assoc, Nat.add_right_comm]
    exact ih hnext (by omega)

/-- Settles O51: `k` emit steps from HEADER reach place `k` of the frame; and of the four kinds of step, a rejected accept and a
stall keep PHASE, a latch starts a frame, and an emit step runs the sequencer. -/
theorem phasesFollowTheFixedSequence : Obligations.PhasesFollowTheFixedSequence := by
  refine ⟨fun s k hs hh hk => ?_, fun s t hs h => ?_⟩
  · rw [← frame_length] at hk
    obtain ⟨t, ht, hsent⟩ := (Sent.start hs hh).emits k (by rwa [Nat.zero_add])
    rw [Nat.zero_add] at hsent
    exact ⟨t, ht, hsent.phase hk⟩
  · rcases step_cases h with ⟨hr, rfl⟩ | ⟨-, hi, c, -, ⟨e, -, rfl⟩ | ⟨op, p, -, -, -, rfl⟩⟩ | ⟨-, hb, -, b, -, rfl⟩ |
      ⟨-, -, rfl⟩
    · exact .inr (.inl ⟨hr, rfl⟩)
    · exact .inl rfl
    · exact .inr (.inr (by simp [hi]))
    · rw [State.tick_phase, State.afterEmit_phase]
      exact (sequence_phase_arrow hb).imp_right .inr
    · exact .inl rfl

/-! ### After a successful accept -/

/-- The state after a successful accept step is at the start of the frame. -/
theorem Sent.of_latch (s : State) (op : Byte) {p : List Byte} (hp : p.length ≤ maxPayload) :
    Sent ((s.latch op p).tick true) 0 ((s.latch op p).tick true) :=
  .start ((LegalState.latch s op hp).tick true) rfl

/-- Settles O52: the first `k` transfers of the frame latched, for every `k` up to its length. -/
theorem emissionIsTheEncodedFrame : Obligations.EmissionIsTheEncodedFrame := by
  intro s c op p f hr hi ho hm hf
  obtain ⟨hp, rfl⟩ := encodeFrame_eq_ok_iff.mp hf
  refine ⟨(s.latch op p).tick true, step_of_accepted hr hi ho hm hp, fun k hk => ?_⟩
  have hframe : ((s.latch op p).tick true).frame = frameBytes op p := latch_frame s op hp
  rw [← hframe] at hk ⊢
  obtain ⟨t, ht, hsent⟩ := (Sent.of_latch s op hp).emits k (by rwa [Nat.zero_add])
  rw [Nat.zero_add] at hsent
  exact ⟨t, ht, hsent.received, fun hlt => ⟨hsent.chk hlt, (hsent.busy hlt).1⟩, hsent.done⟩

/-! ### With a sink that is always ready (R114) -/

/-- From here on the sink is ready in every step and no reset comes. -/
structure AlwaysReady (s : State) : Prop where
  no_reset : s.env.rstLevels = []
  sink : s.env.sink = []
  rest : s.env.sinkRest = true

theorem AlwaysReady.outReady {s : State} (h : AlwaysReady s) : s.outReady = true := by
  rw [State.outReady, h.sink, h.rest]
  rfl

theorem AlwaysReady.tick {s : State} (h : AlwaysReady s) (taken : Bool) : AlwaysReady (s.tick taken) :=
  ⟨by simp [h.no_reset], by simp [h.sink], h.rest⟩

theorem AlwaysReady.afterEmit {s : State} (h : AlwaysReady s) (b : Byte) : AlwaysReady (s.afterEmit b) :=
  ⟨by simp [State.afterEmit_env, h.no_reset], by simp [State.afterEmit_env, h.sink],
    by simp [State.afterEmit_env, h.rest]⟩

theorem run_succ_of_step {s t : State} (n : Nat) (h : step s = .next t) :
    (Host.Core.run core (n + 1) s : Host.Outcome State Fault Refusal) = Host.Core.run core n t := by
  rw [run_succ, h]

/-- Every step of the machine is then an emit step, until the frame has been sent. -/
theorem Sent.run {s : State} (n : Nat) {k : Nat} {t : State} (h : Sent s k t) (hready : AlwaysReady t)
    (hn : k + n ≤ s.frame.length) : ∃ u : State, Host.Core.run core n t = .next u ∧ Sent s (k + n) u := by
  induction n generalizing k t with
  | zero => exact ⟨t, rfl, h⟩
  | succ n ih =>
    have hk : k < s.frame.length := by omega
    obtain ⟨b, ho, hnext⟩ := h.emit hk
    have hstep := step_of_emitted (rst_of_no_levels hready.no_reset) (h.busy hk).1 hready.outReady ho
    rw [run_succ_of_step n hstep, ← Nat.add_assoc, Nat.add_right_comm]
    exact ih (hnext.tick false) ((hready.afterEmit b).tick false) (by omega)

/-- The stream of a state that has sent the whole frame. -/
theorem Sent.stream {s t : State} (h : Sent s s.frame.length t) : t.stream = s.stream ++ s.frame := by
  rw [State.stream, h.received, ← frameTransfers_length, List.take_length, List.map_append, frameTransfers_data]
  rfl

/-- Settles O53: the accept step, and then an emit step for each byte of the frame. -/
theorem frameTakesItsLengthInSteps : Obligations.FrameTakesItsLengthInSteps := by
  intro s c f hi hrst hsink hrest ho hf
  obtain ⟨⟨op, p⟩, hm, hf⟩ := bind_eq_ok hf
  obtain ⟨hp, rfl⟩ := encodeFrame_eq_ok_iff.mp hf
  have hframe : ((s.latch op p).tick true).frame = frameBytes op p := latch_frame s op hp
  have hready : AlwaysReady ((s.latch op p).tick true) :=
    AlwaysReady.tick (s := s.latch op p) ⟨hrst, hsink, hrest⟩ true
  rw [run_succ_of_step _ (step_of_accepted (rst_of_no_levels hrst) hi ho hm hp), ← hframe]
  obtain ⟨t, ht, hsent⟩ := (Sent.of_latch s op hp).run _ hready (Nat.zero_add _).le
  rw [Nat.zero_add] at hsent
  refine ⟨t, ht, hsent.done rfl, hsent.stream, ?_⟩
  rw [State.statusKind, hsent.status]
  exact kindOf_statusOk

end Sys2Proof.Machine
end

section
/-!
PROOFS. The catalog, variant by variant: which inputs a variant reads, what its arguments marshal to, and the first argument
that is absent or illegal.
-/

namespace Sys2Proof.Machine

/-! ### Inputs that a variant does not use (R135) -/

/-- Decoding reads the slots and the bytes of the variant that the selector picks, and nothing else. -/
theorem decode_congr {c d : Command} (hraw : c.raw = d.raw) (hop : c.op = d.op)
    (hslots : ∀ k : Fin 6, c.raw = false → k.val < slotsUsed c.op → (slotOf c k).arg = (slotOf d k).arg)
    (hbytes : usesBytes c = true → c.bytes = d.bytes) : decode c = decode d := by
  cases hc : c.raw with
  | true =>
    rw [decode_raw hc, decode_raw (hraw ▸ hc), hop, hbytes (by simp [usesBytes, hc])]
  | false =>
    have h0 : 0 < slotsUsed c.op → c.a0.arg = d.a0.arg := hslots 0 hc
    have h1 : 1 < slotsUsed c.op → c.a1.arg = d.a1.arg := hslots 1 hc
    have h2 : 2 < slotsUsed c.op → c.a2.arg = d.a2.arg := hslots 2 hc
    have h3 : 3 < slotsUsed c.op → c.a3.arg = d.a3.arg := hslots 3 hc
    have h4 : 4 < slotsUsed c.op → c.a4.arg = d.a4.arg := hslots 4 hc
    have h5 : 5 < slotsUsed c.op → c.a5.arg = d.a5.arg := hslots 5 hc
    rw [decode, decode, ← hraw, ← hop, hc, if_neg Bool.false_ne_true, if_neg Bool.false_ne_true]
    -- In each variant's arm, the slots and the bytes it uses are those that the hypotheses compare.
    split <;> rename_i hvariant <;> simp [hvariant, slotsUsed, usesBytes, h0, h1, h2, h3, h4, h5, hbytes]

/-- Settles O2: transactions that agree on the inputs in use decode to the same instruction, or to the same error. -/
theorem unusedInputsAreIgnored : Obligations.UnusedInputsAreIgnored := by
  intro c d hraw hop hslots hbytes
  rw [marshal, marshal, decode_congr hraw hop hslots hbytes]

/-! ### No arguments (R140, R142, R143, R145 to R147, R149, R150, R152, R160) -/

/-- Where the opcode's variant has no arguments, the opcode alone is decoded. -/
theorem decode_of_no_inputs {c : Command} (hraw : c.raw = false) (hslots : slotsUsed c.op = 0)
    (hbytes : usesBytes (.catalog c.op) = false) : decode c = decode (.catalog c.op) := by
  refine (decode_congr (c := .catalog c.op) (d := c) hraw.symm rfl (fun k _ hk => ?_) (fun h => ?_)).symm
  · exact absurd hk (by simp [Command.catalog, hslots])
  · exact absurd h (by simp [hbytes])

/-- A variant without arguments: its opcode is its whole transaction, and its payload is empty. -/
structure NoArgument (i : Instr) (op : Byte) : Prop where
  decoded : decode (.catalog op) = .ok i
  noSlots : slotsUsed op = 0
  noBytes : usesBytes (.catalog op) = false
  marshalled : marshalInstr i = .ok (op, [])

theorem NoArgument.decode {i : Instr} {op : Byte} (h : NoArgument i op) {c : Command} (hraw : c.raw = false)
    (hop : c.op = op) : decode c = .ok i := by
  subst hop
  rw [decode_of_no_inputs hraw h.noSlots h.noBytes, h.decoded]

/-- Settles O14: nothing can be wrong with an empty payload. -/
theorem noArgumentVariantsAreAccepted : Obligations.NoArgumentVariantsAreAccepted := by
  refine ⟨fun s i op hi hmem => ?_, fun i op c hmem => ?_⟩
  · have h : NoArgument i op := by
      simp only [List.mem_cons, Prod.mk.injEq, List.not_mem_nil, or_false] at hmem
      obtain ⟨rfl, rfl⟩ | ⟨rfl, rfl⟩ | ⟨rfl, rfl⟩ | ⟨rfl, rfl⟩ | ⟨rfl, rfl⟩ | ⟨rfl, rfl⟩ | ⟨rfl, rfl⟩ | ⟨rfl, rfl⟩ |
        ⟨rfl, rfl⟩ | ⟨rfl, rfl⟩ := hmem <;> exact ⟨rfl, rfl, rfl, rfl⟩
    exact ⟨exec_accepted hi h.marshalled (by simp), fun c hraw hop => h.decode hraw hop⟩
  · simp only [List.mem_cons, Prod.mk.injEq, List.not_mem_nil, or_false] at hmem
    obtain ⟨rfl, rfl, rfl⟩ | ⟨rfl, rfl, rfl⟩ | ⟨rfl, rfl, rfl⟩ | ⟨rfl, rfl, rfl⟩ | ⟨rfl, rfl, rfl⟩ | ⟨rfl, rfl, rfl⟩ |
      ⟨rfl, rfl, rfl⟩ | ⟨rfl, rfl, rfl⟩ | ⟨rfl, rfl, rfl⟩ | ⟨rfl, rfl, rfl⟩ := hmem <;> decide

/-! ### One argument and its legal set (R131) -/

/-- The accept step on an instruction whose slot `k` is the first bad one (R191). -/
theorem exec_slot_rejected {i : Instr} {s : State} (k : Fin 6) (hi : s.phase = .idle)
    (hm : marshalInstr i = .error (.argument (.slot k))) :
    ∃ t, exec i s = .next t ∧ Rejected s t 1 (BitVec.ofNat 3 (k.val + 1)) :=
  exec_rejected hi hm

/-- A required number, by the check that `wellFormed` makes of it. -/
theorem arg_required (k : Fin 6) (w : Nat) (a : Option Int) : arg k (.unsigned w) none a =
    bif reqUnsigned w a then .ok (a.getD 0) else .error (.argument (.slot k)) := by
  cases a <;> rfl

/-- Membership in a legal set that is listed, as membership in the interval it fills. -/
theorem admits_oneOf {values : List Int} {lo hi : Int} (h : ∀ v, v ∈ values ↔ lo ≤ v ∧ v ≤ hi) (v : Int) :
    (LegalSet.oneOf values).admits v = (decide (lo ≤ v) && decide (v ≤ hi)) := by
  rw [Bool.eq_iff_iff, LegalSet.admits, List.contains_iff_mem, h v, Bool.and_eq_true, decide_eq_true_eq, decide_eq_true_eq]

theorem storageModes_admits : ∀ v, storageModes.admits v = (decide (0 ≤ v) && decide (v ≤ 1)) :=
  admits_oneOf fun v => by simp only [List.mem_cons, List.not_mem_nil, or_false]; omega

theorem rotations_admits : ∀ v, rotations.admits v = (decide (0 ≤ v) && decide (v ≤ 2)) :=
  admits_oneOf fun v => by simp only [List.mem_cons, List.not_mem_nil, or_false]; omega

theorem colours_admits : ∀ v, colours.admits v = (decide (0 ≤ v) && decide (v ≤ 3)) :=
  admits_oneOf fun v => by simp only [List.mem_cons, List.not_mem_nil, or_false]; omega

theorem fontSizes_admits : ∀ v, fontSizes.admits v = (decide (1 ≤ v) && decide (v ≤ 3)) :=
  admits_oneOf fun v => by simp only [List.mem_cons, List.not_mem_nil, or_false]; omega

/-- An optional argument whose legal set is an interval, by the check that `wellFormed` makes of it. -/
theorem arg_optional (k : Fin 6) {legal : LegalSet} {lo hi : Int}
    (h : ∀ v, legal.admits v = (decide (lo ≤ v) && decide (v ≤ hi))) (d : Int) (a : Option Int) :
    arg k legal (some d) a = bif optBetween lo hi a then .ok (a.getD d) else .error (.argument (.slot k)) := by
  cases a with
  | none => rfl
  | some v => rw [arg_present, h]; rfl

theorem arg_oneOf_ok (k : Fin 6) {values : List Int} (d : Option Int) {v : Int} (h : v ∈ values) :
    arg k (.oneOf values) d (some v) = .ok v := by
  simp [arg_present, LegalSet.admits, h]

theorem arg_oneOf_error (k : Fin 6) {values : List Int} (d : Option Int) {v : Int} (h : v ∉ values) :
    arg k (.oneOf values) d (some v) = .error (.argument (.slot k)) := by
  simp [arg_present, LegalSet.admits, h]

/-! ### SetBaudrate (R141) -/

theorem marshalU32_ok (op : Byte) {rate : Int} (h0 : 0 ≤ rate) (h1 : rate < 4294967296) :
    marshalU32 op (some rate) = .ok (op, bytes32 rate) := by
  have hreq : reqUnsigned 32 (some rate) = true := by simp [reqUnsigned, h0, h1]
  rw [marshalU32, u32, arg_required, hreq, bytes32, ← be32_eq]
  rfl

theorem marshalU32_error (op : Byte) {rate : Option Int} (h : ∀ v, rate = some v → v < 0 ∨ 4294967296 ≤ v) :
    marshalU32 op rate = .error (.argument (.slot 0)) := by
  have hreq : reqUnsigned 32 rate = false := by
    cases rate with
    | none => rfl
    | some v =>
      have hv := h v rfl
      simp only [reqUnsigned, Bool.and_eq_false_iff, decide_eq_false_iff_not]
      omega
  rw [marshalU32, u32, arg_required, hreq]
  rfl

/-- Settles O15: the one argument is required and any 32-bit number. -/
theorem setBaudrateResult : Obligations.SetBaudrateResult := by
  refine ⟨fun s rate hi h0 h1 => ?_, fun s rate hi h => ?_, by decide⟩
  · exact exec_accepted hi (marshalU32_ok 0x01 h0 h1) (by simp [bytes32])
  · exact exec_slot_rejected 0 hi (marshalU32_error 0x01 h)

/-! ### One enumerated argument (R144, R148, R153, R154) -/

theorem marshalEnum_ok (op : Byte) {values : List Int} (d : Int) {v : Int} (h : v ∈ values) :
    marshalEnum op (.oneOf values) d (some v) = .ok (op, [BitVec.ofInt 8 v]) := by
  rw [marshalEnum, arg_oneOf_ok 0 _ h]
  rfl

theorem marshalEnum_error (op : Byte) {values : List Int} (d : Int) {v : Int} (h : v ∉ values) :
    marshalEnum op (.oneOf values) d (some v) = .error (.argument (.slot 0)) := by
  rw [marshalEnum, arg_oneOf_error 0 _ h]
  rfl

/-- Settles O16: the three cases of the one argument. -/
theorem setStorageModeResult : Obligations.SetStorageModeResult := by
  refine ⟨fun s mode hi h => ?_, fun s hi => ?_, fun s mode hi h => ?_, by decide, by decide⟩
  · exact exec_accepted hi (marshalEnum_ok 0x07 _ h) (by simp)
  · exact exec_accepted hi rfl (by simp)
  · exact exec_slot_rejected 0 hi (marshalEnum_error 0x07 _ h)

/-- Settles O17: the three cases of the one argument. -/
theorem setRotationResult : Obligations.SetRotationResult := by
  refine ⟨fun s rotation hi h => ?_, fun s hi => ?_, fun s rotation hi h => ?_, by decide, by decide, by decide⟩
  · exact exec_accepted hi (marshalEnum_ok 0x0D _ h) (by simp)
  · exact exec_accepted hi rfl (by simp)
  · exact exec_slot_rejected 0 hi (marshalEnum_error 0x0D _ h)

/-- Settles O18: the three cases of the one argument, for both instructions. -/
theorem setFontSizeResult : Obligations.SetFontSizeResult := by
  refine ⟨fun s size hi h => ⟨?_, ?_⟩, fun s hi => ⟨?_, ?_⟩, fun s size hi h => ⟨?_, ?_⟩, by decide, by decide⟩
  · exact exec_accepted hi (marshalEnum_ok 0x1E _ h) (by simp)
  · exact exec_accepted hi (marshalEnum_ok 0x1F _ h) (by simp)
  · exact exec_accepted hi rfl (by simp)
  · exact exec_accepted hi rfl (by simp)
  · exact exec_slot_rejected 0 hi (marshalEnum_error 0x1E _ h)
  · exact exec_slot_rejected 0 hi (marshalEnum_error 0x1F _ h)

/-! ### SetPallet (R151) -/

theorem arg_colour_ok (k : Fin 6) (d : Int) {a : Option Int} (h : optBetween 0 3 a = true) :
    arg k colours (some d) a = .ok (a.getD d) := by
  rw [arg_optional k colours_admits, h]
  rfl

/-- Settles O19: the foreground is read first, and each colour has its own default. -/
theorem setPalletResult : Obligations.SetPalletResult := by
  refine ⟨fun s fg bg hi hfg hbg => ?_, fun s fg bg hi hfg => ?_, fun s fg bg hi hfg hbg => ?_⟩
  · have hm : marshalSetPallet fg bg = .ok (0x10, [BitVec.ofInt 8 (fg.getD 0), BitVec.ofInt 8 (bg.getD 3)]) := by
      rw [marshalSetPallet, marshalPalette, arg_colour_ok 0 _ hfg, arg_colour_ok 1 _ hbg]
      rfl
    exact exec_accepted hi hm (by simp)
  · have hm : marshalSetPallet (some fg) bg = .error (.argument (.slot 0)) := by
      rw [marshalSetPallet, marshalPalette, colours, arg_oneOf_error 0 _ hfg]
      rfl
    exact exec_slot_rejected 0 hi hm
  · have hm : marshalSetPallet fg (some bg) = .error (.argument (.slot 1)) := by
      rw [marshalSetPallet, marshalPalette, arg_colour_ok 0 _ hfg, colours, arg_oneOf_error 1 _ hbg]
      rfl
    exact exec_slot_rejected 1 hi hm

/-! ### Coordinates (R156 to R159) -/

theorem be16_eq_bytes16 (v : Int) : be16 v = bytes16 v := be16_eq v

@[simp] theorem bytes16_length (v : Int) : (bytes16 v).length = 2 := rfl

theorem arg_of_inU16 (k : Fin 6) {a : Option Int} (h : inU16 a) : arg k u16 none a = .ok (a.getD 0) := by
  obtain ⟨v, rfl, hv⟩ := h
  exact arg_coordinate_ok ⟨v, rfl, hv⟩

theorem marshal3U16_ok (op : Byte) {x y r : Int} (hx : inU16 (some x)) (hy : inU16 (some y)) (hr : inU16 (some r)) :
    marshal3U16 op (some x) (some y) (some r) = .ok (op, bytes16 x ++ bytes16 y ++ bytes16 r) := by
  rw [marshal3U16, arg_coordinate_ok hx, arg_coordinate_ok hy, arg_coordinate_ok hr]
  simp only [← be16_eq_bytes16]
  rfl

/-- The slots are read in order, so the first bad one is reported (R195). -/
theorem marshal3U16_error (op : Byte) {a : Fin 3 → Option Int} {k : Fin 3} (hlt : ∀ j < k, inU16 (a j))
    (hk : ¬ inU16 (a k)) :
    marshal3U16 op (a 0) (a 1) (a 2) = .error (.argument (.slot (k.castLE (by decide)))) := by
  rw [marshal3U16]
  match k with
  | 0 => rw [arg_coordinate_error hk]; rfl
  | 1 => rw [arg_of_inU16 0 (hlt 0 (by decide)), arg_coordinate_error hk]; rfl
  | 2 => rw [arg_of_inU16 0 (hlt 0 (by decide)), arg_of_inU16 1 (hlt 1 (by decide)), arg_coordinate_error hk]; rfl

/-- Settles O20: both circles marshal three coordinates. -/
theorem circleResult : Obligations.CircleResult := by
  refine ⟨fun s x y r hi hx hy hr => ⟨?_, ?_⟩, fun s a k hi hlt hk => ⟨?_, ?_⟩, by decide, by decide⟩
  · exact exec_accepted hi (marshal3U16_ok 0x26 hx hy hr) (by simp)
  · exact exec_accepted hi (marshal3U16_ok 0x27 hx hy hr) (by simp)
  · exact exec_slot_rejected (k.castLE (by decide)) hi (marshal3U16_error 0x26 hlt hk)
  · exact exec_slot_rejected (k.castLE (by decide)) hi (marshal3U16_error 0x27 hlt hk)

theorem marshal6U16_ok (op : Byte) {v : Fin 6 → Int} (h : ∀ k, inU16 (some (v k))) :
    marshal6U16 op (some (v 0)) (some (v 1)) (some (v 2)) (some (v 3)) (some (v 4)) (some (v 5)) =
      .ok (op, bytes16 (v 0) ++ bytes16 (v 1) ++ bytes16 (v 2) ++ bytes16 (v 3) ++ bytes16 (v 4) ++ bytes16 (v 5)) := by
  have hok (k : Fin 6) : arg k u16 none (some (v k)) = .ok (v k) := arg_coordinate_ok (h k)
  rw [marshal6U16, hok 0, hok 1, hok 2, hok 3, hok 4, hok 5]
  simp only [← be16_eq_bytes16]
  rfl

/-- The slots are read in order, so the first bad one is reported (R195). -/
theorem marshal6U16_error (op : Byte) {a : Fin 6 → Option Int} {k : Fin 6} (hlt : ∀ j < k, inU16 (a j))
    (hk : ¬ inU16 (a k)) :
    marshal6U16 op (a 0) (a 1) (a 2) (a 3) (a 4) (a 5) = .error (.argument (.slot k)) := by
  have hok (j : Fin 6) (hj : j < k) : arg j u16 none (a j) = .ok ((a j).getD 0) := arg_of_inU16 j (hlt j hj)
  have hbad : arg k u16 none (a k) = .error (.argument (.slot k)) := arg_coordinate_error hk
  rw [marshal6U16]
  match k with
  | 0 => rw [hbad]; rfl
  | 1 => rw [hok 0 (by decide), hbad]; rfl
  | 2 => rw [hok 0 (by decide), hok 1 (by decide), hbad]; rfl
  | 3 => rw [hok 0 (by decide), hok 1 (by decide), hok 2 (by decide), hbad]; rfl
  | 4 => rw [hok 0 (by decide), hok 1 (by decide), hok 2 (by decide), hok 3 (by decide), hbad]; rfl
  | 5 => rw [hok 0 (by decide), hok 1 (by decide), hok 2 (by decide), hok 3 (by decide), hok 4 (by decide), hbad]; rfl

/-- Settles O21: both triangles marshal six coordinates. -/
theorem triangleResult : Obligations.TriangleResult := by
  refine ⟨fun s v hi h => ⟨?_, ?_⟩, fun s a k hi hlt hk => ⟨?_, ?_⟩, by decide, by decide⟩
  · exact exec_accepted hi (marshal6U16_ok 0x28 h) (by simp)
  · exact exec_accepted hi (marshal6U16_ok 0x29 h) (by simp)
  · exact exec_slot_rejected k hi (marshal6U16_error 0x28 hlt hk)
  · exact exec_slot_rejected k hi (marshal6U16_error 0x29 hlt hk)

/-! ### Text and images (R155, R161, R132) -/

theorem marshalXyStr_ok (op : Byte) {x y : Option Int} (bytes : List Byte) (hx : inU16 x) (hy : inU16 y) :
    marshalXyStr op x y bytes = .ok (op, bytes16 (x.getD 0) ++ bytes16 (y.getD 0) ++ bytes ++ [0x00]) := by
  rw [marshalXyStr, arg_of_inU16 0 hx, arg_of_inU16 1 hy]
  simp only [← be16_eq_bytes16]
  rfl

theorem marshalXyStr_x_error (op : Byte) {x : Option Int} (y : Option Int) (bytes : List Byte) (hx : ¬ inU16 x) :
    marshalXyStr op x y bytes = .error (.argument (.slot 0)) := by
  rw [marshalXyStr, arg_coordinate_error hx]
  rfl

theorem marshalXyStr_y_error (op : Byte) {x y : Option Int} (bytes : List Byte) (hx : inU16 x) (hy : ¬ inU16 y) :
    marshalXyStr op x y bytes = .error (.argument (.slot 1)) := by
  rw [marshalXyStr, arg_of_inU16 0 hx, arg_coordinate_error hy]
  rfl

/-- Settles O22: the position is checked by `marshal`, x first, and the length after it by `encode_frame`. -/
theorem textAndImageResult : Obligations.TextAndImageResult := by
  refine ⟨fun s x y bytes hi hx hy hlen => ?_, fun s x y bytes hi hx => ⟨?_, ?_⟩,
    fun s x y bytes hi hx hy => ⟨?_, ?_⟩, fun s x y bytes hi hx hy hlen => ?_, by decide, by decide⟩
  · have hm (op : Byte) := marshalXyStr_ok op bytes hx hy
    have hfits (op : Byte) := (marshalXyStr_length (hm op)).trans_le (Nat.add_le_add_right hlen 5)
    exact ⟨exec_accepted hi (hm 0x30) (hfits 0x30), exec_accepted hi (hm 0x70) (hfits 0x70)⟩
  · exact exec_slot_rejected 0 hi (marshalXyStr_x_error 0x30 y bytes hx)
  · exact exec_slot_rejected 0 hi (marshalXyStr_x_error 0x70 y bytes hx)
  · exact exec_slot_rejected 1 hi (marshalXyStr_y_error 0x30 bytes hx hy)
  · exact exec_slot_rejected 1 hi (marshalXyStr_y_error 0x70 bytes hx hy)
  · have hm (op : Byte) := marshalXyStr_ok op bytes hx hy
    have hlong (op : Byte) := (Nat.add_lt_add_right hlen 5).trans_eq (marshalXyStr_length (hm op)).symm
    exact ⟨exec_too_long hi (hm 0x30) (hlong 0x30), exec_too_long hi (hm 0x70) (hlong 0x70)⟩

/-! ### RAW (R162) -/

/-- Settles O23: RAW marshals to what it carries, so the length is its only check. -/
theorem rawResult : Obligations.RawResult := by
  refine ⟨fun s op p hi hp => ?_, fun s op p hi hp => ?_, fun s => exec_congr rfl s, by decide, by decide⟩
  · exact exec_accepted hi rfl hp
  · exact exec_too_long hi (op := op) rfl hp

/-! ### Where a frame starts (R131, R191, R192) -/

/-- A computation whose second part succeeds or not regardless of the first part's value. -/
theorem isOk_bind {α β : Type} {x : Except CmdError α} {f : α → Except CmdError β} {b : Bool} (h : ∀ a, (f a).isOk = b) :
    (x >>= f).isOk = (x.isOk && b) := by
  cases x with
  | error e => rfl
  | ok a => exact h a

theorem arg_required_isOk (k : Fin 6) (w : Nat) (a : Option Int) :
    (arg k (.unsigned w) none a).isOk = reqUnsigned w a := by
  rw [arg_required]
  cases reqUnsigned w a <;> rfl

theorem arg_optional_isOk (k : Fin 6) {legal : LegalSet} {lo hi : Int}
    (h : ∀ v, legal.admits v = (decide (lo ≤ v) && decide (v ≤ hi))) (d : Int) (a : Option Int) :
    (arg k legal (some d) a).isOk = optBetween lo hi a := by
  rw [arg_optional k h]
  cases optBetween lo hi a <;> rfl

theorem marshalU32_isOk (op : Byte) (a0 : Option Int) : (marshalU32 op a0).isOk = reqUnsigned 32 a0 := by
  rw [marshalU32, isOk_bind (b := true) fun _ => rfl, u32, arg_required_isOk, Bool.and_true]

theorem marshalEnum_isOk (op : Byte) {legal : LegalSet} {lo hi : Int}
    (h : ∀ v, legal.admits v = (decide (lo ≤ v) && decide (v ≤ hi))) (d : Int) (a0 : Option Int) :
    (marshalEnum op legal d a0).isOk = optBetween lo hi a0 := by
  rw [marshalEnum, isOk_bind (b := true) fun _ => rfl, arg_optional_isOk 0 h, Bool.and_true]

theorem marshalPalette_isOk (op : Byte) (dfg dbg : Int) (a0 a1 : Option Int) :
    (marshalPalette op dfg dbg a0 a1).isOk = (optBetween 0 3 a0 && optBetween 0 3 a1) := by
  rw [marshalPalette, isOk_bind fun _ => isOk_bind (b := true) fun _ => rfl, arg_optional_isOk 0 colours_admits,
    arg_optional_isOk 1 colours_admits, Bool.and_true]

theorem marshal3U16_isOk (op : Byte) (a0 a1 a2 : Option Int) :
    (marshal3U16 op a0 a1 a2).isOk = (reqUnsigned 16 a0 && reqUnsigned 16 a1 && reqUnsigned 16 a2) := by
  rw [marshal3U16, isOk_bind fun _ => isOk_bind fun _ => isOk_bind (b := true) fun _ => rfl]
  simp only [u16, arg_required_isOk, Bool.and_true, Bool.and_assoc]

theorem marshal6U16_isOk (op : Byte) (a0 a1 a2 a3 a4 a5 : Option Int) :
    (marshal6U16 op a0 a1 a2 a3 a4 a5).isOk = (reqUnsigned 16 a0 && reqUnsigned 16 a1 && reqUnsigned 16 a2
      && reqUnsigned 16 a3 && reqUnsigned 16 a4 && reqUnsigned 16 a5) := by
  rw [marshal6U16, isOk_bind fun _ => isOk_bind fun _ => isOk_bind fun _ => isOk_bind fun _ => isOk_bind fun _ =>
    isOk_bind (b := true) fun _ => rfl]
  simp only [u16, arg_required_isOk, Bool.and_true, Bool.and_assoc]

theorem marshalXyStr_isOk (op : Byte) (a0 a1 : Option Int) (bytes : List Byte) :
    (marshalXyStr op a0 a1 bytes).isOk = (reqUnsigned 16 a0 && reqUnsigned 16 a1) := by
  rw [marshalXyStr, isOk_bind fun _ => isOk_bind (b := true) fun _ => rfl]
  simp only [u16, arg_required_isOk, Bool.and_true]

/-- An instruction is well formed where its arguments marshal and its frame's length (R78) fits the LENGTH field (R102). -/
theorem wellFormed_eq (i : Instr) :
    i.wellFormed = ((marshalInstr i).isOk && decide (frameLength (encode i) ≤ maxFrameLen)) := by
  cases i with
  | handshake | readBaudrate | readStorageMode | sleepMode | refreshAndUpdate | currentDisplayRotation
  | importFontLibrary | importImage | getPallet | clearScreen => rfl
  | setBaudrate => exact ((Bool.and_true _).trans (marshalU32_isOk ..)).symm
  | setStorageMode => exact ((Bool.and_true _).trans (marshalEnum_isOk _ storageModes_admits ..)).symm
  | setCurrentDisplayRotation => exact ((Bool.and_true _).trans (marshalEnum_isOk _ rotations_admits ..)).symm
  | setEnFontSize | setZhFontSize => exact ((Bool.and_true _).trans (marshalEnum_isOk _ fontSizes_admits ..)).symm
  | setPallet => exact ((Bool.and_true _).trans (marshalPalette_isOk ..)).symm
  | drawCircle | fillCircle => exact ((Bool.and_true _).trans (marshal3U16_isOk ..)).symm
  | drawTriangle | fillTriangle => exact ((Bool.and_true _).trans (marshal6U16_isOk ..)).symm
  | displayText | displayImage =>
    refine (congrArg₂ (· && ·) (marshalXyStr_isOk ..) (decide_eq_decide.mpr ?_)).symm
    exact Nat.add_le_add_iff_right (n := 14) (k := 65521)
  | raw op payload =>
    exact (decide_eq_decide.mpr (Nat.add_le_add_iff_right (n := 9) (k := 65526))).symm

/-- The instructions that are well formed are those with a frame. -/
theorem wellFormed_iff {i : Instr} :
    i.wellFormed = true ↔ ∃ op p, marshalInstr i = .ok (op, p) ∧ p.length ≤ maxPayload := by
  rw [wellFormed_eq, Bool.and_eq_true, decide_eq_true_eq]
  cases hm : marshalInstr i with
  | error e => simp [Except.isOk, Except.toBool]
  | ok q =>
    obtain ⟨op, p⟩ := q
    rw [← marshalInstr_length hm]
    simp [Except.isOk, Except.toBool, maxFrameLen, maxPayload]

theorem errorKind_ne_zero (e : CmdError) : errorKind e ≠ 0 := by
  cases e with
  | argument => exact (by decide : (1 : BitVec 2) ≠ 0)
  | encoding => exact (by decide : (2 : BitVec 2) ≠ 0)

/-- Settles O25: the instructions that are well formed are those that an accept latches. -/
theorem frameStartsExactlyWhereWellFormed : Obligations.FrameStartsExactlyWhereWellFormed := by
  intro i s hi
  refine ⟨_, exec_eq_accept i s, ?_⟩
  rcases accept_cases hi (marshalInstr i) with ⟨e, he, ha⟩ | ⟨op, p, hm, hp, -, ha⟩
  · have hw : ¬ i.wellFormed = true := by
      rw [wellFormed_iff]
      rintro ⟨op, p, hm, hp⟩
      rw [hm] at he
      cases (encodeFrame_of_le hp).symm.trans he
    have hkind : (s.takeError e).statusKind ≠ 0 := (takeError_rejected s e).kind ▸ errorKind_ne_zero e
    rw [ha]
    exact ⟨iff_of_false (by simp [hi]) hw, iff_of_false hkind hw⟩
  · have hw : i.wellFormed = true := wellFormed_iff.mpr ⟨op, p, hm, hp⟩
    rw [ha]
    exact ⟨iff_of_true rfl hw, iff_of_true (latch_accepted s op hp).kind hw⟩

/-! ### An earlier STATUS (R134, R197) -/

/-- An accept in IDLE writes STATUS and does not read it. -/
theorem accept_status_irrelevant {s : State} (hi : s.phase = .idle) (x y : BitVec 5) (r : Marshalled) :
    ({ s with status := x } : State).accept r = ({ s with status := y } : State).accept r := by
  have hx : ({ s with status := x } : State).phase = .idle := hi
  have hy : ({ s with status := y } : State).phase = .idle := hi
  match r with
  | .error e => rw [accept_error hx, accept_error hy]; rfl
  | .ok (op, p) =>
    rcases Nat.lt_or_ge maxPayload p.length with hp | hp
    · rw [accept_long hx op hp, accept_long hy op hp]; rfl
    · rw [accept_ok hx op hp, accept_ok hy op hp]; rfl

/-- Settles O27: an instruction is an accept of what it marshals to. -/
theorem earlierStatusDoesNotMatter : Obligations.EarlierStatusDoesNotMatter := by
  intro i s x y hi
  rw [exec_eq_accept, exec_eq_accept, accept_status_irrelevant hi x y]

end Sys2Proof.Machine
end

section
/-!
PROOFS. Errors: what an accept step that raises one leaves, and which error a transaction with several is given.
-/

namespace Sys2Proof.Machine

/-! ### A rejected command (R193) -/

/-- Settles O28: the step takes the error in place of latching, and the environment drops the transaction. -/
theorem rejectedCommandWritesOnlyStatus : Obligations.RejectedCommandWritesOnlyStatus := by
  intro s c e hr hi ho he
  have hready : (s.takeError e).cmdReady = true := (cmdReady_iff _).mpr hi
  exact ⟨s.takeError e, step_of_rejected hr hi ho he, takeError_rejected s e, hready, rfl, advanceProducer_true _⟩

/-! ### Slots read in order (R131, R195) -/

/-- A computation that reads slots `k` to `n - 1` in order: the first bad one is its error, and with none of them bad it
succeeds. -/
structure ReadsSlots {α : Type} (fine : Fin 6 → Bool) (k n : Nat) (m : Except CmdError α) : Prop where
  first_bad : ∀ j : Fin 6, k ≤ j.val → j.val < n → (∀ l < j, fine l = true) → fine j = false →
    m = .error (.argument (.slot j))
  all_fine : (∀ j : Fin 6, k ≤ j.val → j.val < n → fine j = true) → ∃ a, m = .ok a

/-- No slot is left to read. -/
theorem ReadsSlots.done {α : Type} {fine : Fin 6 → Bool} {n : Nat} (a : α) : ReadsSlots fine n n (.ok a) where
  first_bad _ hle hlt := absurd hlt hle.not_gt
  all_fine _ := ⟨a, rfl⟩

/-- One slot is read, and then those after it. -/
theorem ReadsSlots.read {α β : Type} {fine : Fin 6 → Bool} {n : Nat} {x : Except CmdError α} {v : α}
    {f : α → Except CmdError β} (k : Fin 6) (hx : x = bif fine k then .ok v else .error (.argument (.slot k)))
    (hf : ReadsSlots fine (k.val + 1) n (f v)) (hk : k.val < n := by decide) : ReadsSlots fine k.val n (x >>= f) where
  first_bad j hle hjn hlt hbad := by
    rcases hle.eq_or_lt with heq | hgt
    · obtain rfl := Fin.ext heq
      rw [hx, hbad]
      rfl
    · rw [hx, hlt k hgt]
      exact hf.first_bad j hgt hjn hlt hbad
  all_fine h := by
    rw [hx, h k le_rfl hk]
    exact hf.all_fine fun j hgt => h j (Nat.le_of_succ_le hgt)

/-! ### The formats with arguments (R76) -/

section
variable (op : Byte) (a : Fin 6 → Option Int)

theorem marshalU32_readsSlots : ReadsSlots (fun k => reqUnsigned 32 (a k)) 0 1 (marshalU32 op (a 0)) :=
  .read 0 (arg_required 0 32 _) (.done _)

theorem marshalEnum_readsSlots {legal : LegalSet} {lo hi : Int}
    (h : ∀ v, legal.admits v = (decide (lo ≤ v) && decide (v ≤ hi))) (d : Int) :
    ReadsSlots (fun k => optBetween lo hi (a k)) 0 1 (marshalEnum op legal d (a 0)) :=
  .read 0 (arg_optional 0 h d _) (.done _)

theorem marshalPalette_readsSlots (dfg dbg : Int) :
    ReadsSlots (fun k => optBetween 0 3 (a k)) 0 2 (marshalPalette op dfg dbg (a 0) (a 1)) :=
  .read 0 (arg_optional 0 colours_admits dfg _) (.read 1 (arg_optional 1 colours_admits dbg _) (.done _))

theorem marshalXyStr_readsSlots (bytes : List Byte) :
    ReadsSlots (fun k => reqUnsigned 16 (a k)) 0 2 (marshalXyStr op (a 0) (a 1) bytes) :=
  .read 0 (arg_required 0 16 _) (.read 1 (arg_required 1 16 _) (.done _))

theorem marshal3U16_readsSlots :
    ReadsSlots (fun k => reqUnsigned 16 (a k)) 0 3 (marshal3U16 op (a 0) (a 1) (a 2)) :=
  .read 0 (arg_required 0 16 _) (.read 1 (arg_required 1 16 _) (.read 2 (arg_required 2 16 _) (.done _)))

theorem marshal6U16_readsSlots :
    ReadsSlots (fun k => reqUnsigned 16 (a k)) 0 6 (marshal6U16 op (a 0) (a 1) (a 2) (a 3) (a 4) (a 5)) :=
  .read 0 (arg_required 0 16 _) (.read 1 (arg_required 1 16 _) (.read 2 (arg_required 2 16 _)
    (.read 3 (arg_required 3 16 _) (.read 4 (arg_required 4 16 _) (.read 5 (arg_required 5 16 _) (.done _))))))

end

/-! ### The catalog, by format (R74, R75) -/

/-- Over the 256 opcodes: an assigned one uses no inputs and has an empty payload, or it is one of the variants with
arguments. -/
theorem format_of_assigned : ∀ op : Byte, op.toNat ∉ unassignedOps →
    (slotsUsed op = 0 ∧ usesBytes (.catalog op) = false ∧ marshal (.catalog op) = .ok (op, [])) ∨ op = 0x01 ∨
    (op = 0x07 ∨ op = 0x0D ∨ op = 0x1E ∨ op = 0x1F) ∨ op = 0x10 ∨ (op = 0x30 ∨ op = 0x70) ∨ (op = 0x26 ∨ op = 0x27) ∨
    (op = 0x28 ∨ op = 0x29) := by decide +kernel

/-- `marshal` reads the slots that an assigned opcode's variant uses, in order. -/
theorem marshal_readsSlots {c : Command} (hraw : c.raw = false) (hop : c.op.toNat ∉ unassignedOps) :
    ReadsSlots (fun k => slotFine c.op (slotOf c k).arg) 0 (slotsUsed c.op) (marshal c) := by
  rcases format_of_assigned c.op hop with ⟨hslots, hbytes, hempty⟩ | hvariant
  · have hm : marshal c = .ok (c.op, []) := by
      rw [marshal, decode_of_no_inputs hraw hslots hbytes]
      exact hempty
    rw [hm, hslots]
    exact .done _
  · obtain ⟨raw, op, a0, a1, a2, a3, a4, a5, bytes⟩ := c
    obtain rfl : raw = false := hraw
    rcases hvariant with rfl | (rfl | rfl | rfl | rfl) | rfl | (rfl | rfl) | (rfl | rfl) | (rfl | rfl)
    · exact marshalU32_readsSlots 0x01 _
    · exact marshalEnum_readsSlots 0x07 _ storageModes_admits defaultStorage
    · exact marshalEnum_readsSlots 0x0D _ rotations_admits defaultRotation
    · exact marshalEnum_readsSlots 0x1E _ fontSizes_admits defaultFontSize
    · exact marshalEnum_readsSlots 0x1F _ fontSizes_admits defaultFontSize
    · exact marshalPalette_readsSlots 0x10 _ defaultFg defaultBg
    · exact marshalXyStr_readsSlots 0x30 _ bytes
    · exact marshalXyStr_readsSlots 0x70 _ bytes
    · exact marshal3U16_readsSlots 0x26 _
    · exact marshal3U16_readsSlots 0x27 _
    · exact marshal6U16_readsSlots 0x28 _
    · exact marshal6U16_readsSlots 0x29 _

/-! ### The first error (R195) -/

/-- Settles O29: an unassigned opcode does not decode, an assigned one's slots are read in order, and `encode_frame` checks
the length of what `marshal` gives. -/
theorem firstErrorIsReported : Obligations.FirstErrorIsReported := by
  refine fun c => ⟨fun hraw hmem => ?_, fun hraw hop => ⟨fun k hk hlt hbad => ?_, fun hfine => ?_⟩⟩
  · exact commandFrame_of_decode_error ((decode_error_iff_catalog hraw).mpr ((mem_unassignedOps_iff c.op).mp hmem))
  · rw [commandFrame, (marshal_readsSlots hraw hop).first_bad k (Nat.zero_le _) hk hlt hbad]
    rfl
  · obtain ⟨⟨op, p⟩, hm⟩ := (marshal_readsSlots hraw hop).all_fine fun k _ => hfine k
    exact ⟨op, p, hm, by rw [commandFrame, hm]; rfl⟩

end Sys2Proof.Machine
end

section
/-!
PROOFS. Resets and hazards: a reset step, a busy framer under a stalled sink, and other offers while a frame is in flight.
-/

namespace Sys2Proof.Machine

/-! ### The reset step (R210) -/

/-- Settles O38: the reset step writes the registers' reset values, and the environment that moves on holds the offer. -/
theorem resetStepResult : Obligations.ResetStepResult := by
  intro s hr
  refine ⟨s.resetStep.tick false, step_of_reset hr, rfl, rfl, rfl, rfl, rfl, rfl, kindOf_statusOk, fieldOf_statusOk, rfl,
    fun c ho => ?_⟩
  exact advanceProducer_false_of_offered ho

/-! ### A busy framer (R215) -/

/-- Settles O24: every instruction is an accept step, which a busy framer does not take. -/
theorem busyFramerTakesNothing : Obligations.BusyFramerTakesNothing := by
  intro i s hb
  rw [exec_eq_accept, accept_of_busy hb]

/-! ### A stalled sink (R217) -/

theorem State.outReady_eq_getD (s : State) : s.outReady = s.env.sink.getD 0 s.env.sinkRest := by
  cases h : s.env.sink <;> simp [State.outReady, h]

/-- The sink's levels from the next step on. -/
theorem State.tick_sink_getD (s : State) (taken : Bool) (k : Nat) :
    (s.tick taken).env.sink.getD k (s.tick taken).env.sinkRest = s.env.sink.getD (k + 1) s.env.sinkRest := by
  simp [List.getD_eq_getElem?_getD]

/-- Steps in which the sink is not ready change the environment only, and of it neither what the sink has received nor an
offer. -/
theorem run_of_stalled {s : State} (n : Nat) (hb : s.phase ≠ .idle) (hrst : s.env.rstLevels = [])
    (hsink : ∀ k < n, s.env.sink.getD k s.env.sinkRest = false) :
    ∃ env : Env, Host.Core.run core n s = .next { s with env := env } ∧ env.received = s.env.received ∧
      ∀ c, s.offered = some c → env.producer = s.env.producer := by
  induction n generalizing s with
  | zero => exact ⟨s.env, rfl, rfl, fun _ _ => rfl⟩
  | succ n ih =>
    have hnot : s.outReady = false := s.outReady_eq_getD.trans (hsink 0 n.succ_pos)
    have hstep : step s = .next (s.tick false) := step_of_not_ready (rst_of_no_levels hrst) hb hnot
    obtain ⟨env, hrun, hreceived, hheld⟩ := ih (s := s.tick false) hb (by simp [hrst])
      fun k hk => (s.tick_sink_getD false k).trans (hsink (k + 1) (Nat.succ_lt_succ hk))
    refine ⟨env, (run_succ_of_step n hstep).trans hrun, hreceived, fun c ho => ?_⟩
    have hkept : (s.tick false).env.producer = s.env.producer := advanceProducer_false_of_offered ho
    have ho' : (s.tick false).offered = some c := by rw [State.offered, hkept]; exact ho
    exact (hheld c ho').trans hkept

/-- Settles O42: a stalled run changes the environment only. -/
theorem stalledSinkHoldsTheFrame : Obligations.StalledSinkHoldsTheFrame := by
  intro n s hb hrst hsink
  obtain ⟨env, hrun, hreceived, hheld⟩ := run_of_stalled n hb hrst hsink
  exact ⟨_, hrun, rfl, rfl, rfl, rfl, rfl, rfl, rfl, rfl, rfl, hreceived, hheld⟩

/-! ### Other offers (R216): no part of an emit step reads or writes them -/

section
variable (s : State) (offers : List (Option Command))

theorem State.withOffers_phase : (s.withOffers offers).phase = s.phase := rfl

theorem State.transfer_withOffers (b : Byte) : (s.withOffers offers).transfer b = (s.transfer b).withOffers offers := rfl

theorem State.foldChk_withOffers (b : Byte) : (s.withOffers offers).foldChk b = (s.foldChk b).withOffers offers := by
  simp only [State.foldChk, State.withOffers_phase, apply_ite (State.withOffers · offers)]
  rfl

theorem State.sequence_withOffers : (s.withOffers offers).sequence = s.sequence.withOffers offers := by
  cases hph : s.phase with
  | idle => simp only [State.sequence, State.withOffers_phase, hph]
  | header | lenHi | lenLo | opcode | checksum => simp only [State.sequence, State.withOffers_phase, hph]; rfl
  | payload | footer =>
    simp only [State.sequence, State.withOffers_phase, hph, apply_ite (State.withOffers · offers)]
    rfl

theorem State.afterEmit_withOffers (b : Byte) :
    (s.withOffers offers).afterEmit b = (s.afterEmit b).withOffers offers := by
  rw [State.afterEmit, State.transfer_withOffers, State.foldChk_withOffers, State.sequence_withOffers, State.afterEmit]

end

/-- Settles O43: outside IDLE a step is a reset, a stall, a fault or an emit step. Which one, and what it writes but the offers,
depends on nothing that `withOffers` changes. -/
theorem offersDoNotReachAFrameInFlight : Obligations.OffersDoNotReachAFrameInFlight := by
  intro s offers hb
  rcases hr : s.rst with _ | _
  · rcases hready : s.outReady with _ | _
    · rw [step_of_not_ready hr hb hready, step_of_not_ready (s := s.withOffers offers) hr hb hready]
      rfl
    · rcases ho : s.outData with _ | b
      · rw [step_of_ready hr hb hready, step_of_ready (s := s.withOffers offers) hr hb hready,
          emit_of_outData_none hb ho, emit_of_outData_none (s := s.withOffers offers) hb ho]
        rfl
      · rw [step_of_emitted hr hb hready ho, step_of_emitted (s := s.withOffers offers) hr hb hready ho,
          State.afterEmit_withOffers]
        rfl
  · rw [step_of_reset hr, step_of_reset (s := s.withOffers offers) hr]
    rfl

end Sys2Proof.Machine
end
